-- ==== Sys2Proof/Word.lean ====
section
/-! DEFINITION. The word types of the block: the command word, a raw sample, a signed 64-bit value
(00_scope.md R6, 30_encoding.md R70). -/

namespace Sys2Proof

/-- A command word, as it stands on the `cmd` port (R70). -/
abbrev Word := BitVec 32

/-- A 24-bit raw sample: the document's RawSample, the accumulator and DECODE's operand (R20, R73). -/
abbrev Raw := BitVec 24

/-- A 64-bit two's-complement pattern: every signed value of the block (R6, D10). -/
abbrev Word64 := BitVec 64

end Sys2Proof
end

