-- ==== Sys2Proof/Syntax.lean ====
section
/-! DEFINITION. The commands of the block (opcode_table.json, 30_encoding.md R72) and the assembler's lines (R76). -/

namespace Sys2Proof

/-- One constructor per row of opcode_table.json. Only DECODE has an operand, the raw sample `m = cmd[31:8]` (R73). -/
inductive Instr where
  | init
  | tare
  | readRaw
  | getWeight
  | decode (m : Raw)
  deriving DecidableEq, Repr

/-- One line of assembler (R76). DECODE's operand is an unsigned number as written, not yet known to fit 24 bits. -/
inductive AsmCmd where
  | init
  | tare
  | readRaw
  | getWeight
  | decode (imm24 : Nat)
  deriving DecidableEq, Repr

/-- Why a line does not assemble. -/
inductive AsmError where
  /-- "An operand outside 0..0xFFFFFF is an assembly error, not a command." (R76) -/
  | operandOutOfRange
  /-- The line is not one of the five forms of R76. -/
  | notACommand
  deriving DecidableEq, Repr

/-- Why a command word is illegal: the grounds (a), (b), (c) of R74. -/
inductive IllegalWord where
  /-- (a) `OPC ∈ {000, 110, 111}` -/
  | reservedCode
  /-- (b) `RSV ≠ 0` -/
  | reservedBits
  /-- (c) `OPC ∈ {001, 010, 011, 100}` and `IMM24 ≠ 0` -/
  | strayOperand
  deriving DecidableEq, Repr

/-- What `decode_cmd` answers: a command, or Illegal with its ground (R75). -/
inductive Decoded where
  | cmd (i : Instr)
  | illegal (why : IllegalWord)
  deriving DecidableEq, Repr

end Sys2Proof
end

