-- ==== Sys2Proof/WellFormed.lean ====
section
/-! DEFINITION. What is well formed: an assembler line (30_encoding.md R76), a command, and a command word, the last
written from R74's own three grounds and not from the decoder. -/

namespace Sys2Proof

/-- R76: the operand of DECODE lies in 0..0xFFFFFF. -/
def AsmCmd.wellFormed : AsmCmd → Bool
  | .init | .tare | .readRaw | .getWeight => true
  | .decode imm24 => decide (imm24 ≤ 0xFFFFFF)

/-- A command is well formed when its operand fits the field IMM24 (R73). The operand's type is that field, so the
check never fails; it is the assembler line of a command (`AsmCmd.wellFormed`) that may be ill formed. -/
def Instr.wellFormed : Instr → Bool
  | .init | .tare | .readRaw | .getWeight => true
  | .decode m => decide (m.toNat ≤ 0xFFFFFF)

/-- R74 (a): a reserved operation code. -/
def Word.hasReservedCode (w : Word) : Bool :=
  w.toNat % 8 == 0 || w.toNat % 8 == 6 || w.toNat % 8 == 7

/-- R74 (b): a reserved bit is set. -/
def Word.hasReservedBits (w : Word) : Bool := w.toNat / 8 % 32 != 0

/-- R74 (c): an operand on an operation that has none. -/
def Word.hasStrayOperand (w : Word) : Bool :=
  decide (1 ≤ w.toNat % 8) && decide (w.toNat % 8 ≤ 4) && w.toNat / 256 != 0

/-- "A word is illegal exactly when one of the following holds" (R74). -/
def Word.legal (w : Word) : Bool :=
  !(Word.hasReservedCode w || Word.hasReservedBits w || Word.hasStrayOperand w)

end Sys2Proof
end

