-- ==== Sys2Proof/Decode.lean ====
section
/-! DEFINITION. The command decoder (30_encoding.md R75), total on every word and rejecting by the ground of R74;
the encoder from the same tables (R71, R72); the assembler of R76. -/

namespace Sys2Proof

/-- `OPC`, bits 2:0 (R71). -/
def opcOf (w : Word) : BitVec 3 := w.extractLsb' 0 3

/-- `RSV`, bits 7:3 (R71). -/
def rsvOf (w : Word) : BitVec 5 := w.extractLsb' 3 5

/-- `IMM24`, bits 31:8 (R71). -/
def imm24Of (w : Word) : Raw := w.extractLsb' 8 24

/-- A command without operand: legal only with `IMM24 = 0` (R74 (c)). -/
def decodeBare (i : Instr) (imm : Raw) : Decoded :=
  if imm = 0#24 then .cmd i else .illegal .strayOperand

/-- `decode_cmd` (R75), with the operation codes of R72. -/
def decodeCmd (w : Word) : Decoded :=
  if rsvOf w ≠ 0#5 then .illegal .reservedBits
  else if opcOf w = 0b001#3 then decodeBare .init (imm24Of w)
  else if opcOf w = 0b010#3 then decodeBare .tare (imm24Of w)
  else if opcOf w = 0b011#3 then decodeBare .readRaw (imm24Of w)
  else if opcOf w = 0b100#3 then decodeBare .getWeight (imm24Of w)
  else if opcOf w = 0b101#3 then .cmd (.decode (imm24Of w))
  else .illegal .reservedCode

/-- The command of a decoding, if it is one. -/
def Decoded.toOption : Decoded → Option Instr
  | .cmd i => some i
  | .illegal _ => none

/-- A word of opcode_table.json's numbering: bit 0 is the least significant, every row has 32 bits. -/
def tableWord (nbits w : Nat) : Word := BitVec.ofNat 32 (w % 2 ^ nbits)

/-- What the decoder reads from a word numbered as opcode_table.json numbers it. -/
def decodeTableWord (nbits w : Nat) : Option Instr := (decodeCmd (tableWord nbits w)).toOption

/-- The operation code of a command (R72). -/
def Instr.opc : Instr → BitVec 3
  | .init => 0b001#3
  | .tare => 0b010#3
  | .readRaw => 0b011#3
  | .getWeight => 0b100#3
  | .decode _ => 0b101#3

/-- The operand field of a command: 0 where it has no operand (R71). -/
def Instr.imm24 : Instr → Raw
  | .init | .tare | .readRaw | .getWeight => 0#24
  | .decode m => m

/-- The word of a command: `{IMM24, RSV = 00000, OPC}` (R71). -/
def encode (i : Instr) : Word := i.imm24 ++ 0#5 ++ i.opc

/-- "The assembler emits `(imm24 << 8) | 0x5` for `DECODE` and the match value of rule R72 for the others." (R76) -/
def AsmCmd.emit : AsmCmd → Word
  | .init => 0x00000001#32
  | .tare => 0x00000002#32
  | .readRaw => 0x00000003#32
  | .getWeight => 0x00000004#32
  | .decode imm24 => (BitVec.ofNat 32 imm24 <<< 8) ||| 0x5#32

/-- Assemble one line, refusing an operand out of range (R76). -/
def assemble (a : AsmCmd) : Except AsmError Word :=
  if a.wellFormed then .ok a.emit else .error .operandOutOfRange

/-- The command an assembler line names. -/
def AsmCmd.toInstr : AsmCmd → Instr
  | .init => .init
  | .tare => .tare
  | .readRaw => .readRaw
  | .getWeight => .getWeight
  | .decode imm24 => .decode (BitVec.ofNat 24 imm24)

/-! The text of a line (R76). DESIGN CHOICE, log 10: words are separated by spaces or tabs, `;` starts a comment,
hexadecimal digits may be of either case. -/

/-- The part of a line before its comment. -/
def stripComment (l : List Char) : List Char := l.takeWhile (· != ';')

/-- The blank-separated words of a line; `cur` holds the current word, last character first. -/
def lineWords : List Char → List Char → List (List Char)
  | cur, [] => if cur.isEmpty then [] else [cur.reverse]
  | cur, c :: cs =>
    if c = ' ' ∨ c = '\t' then
      if cur.isEmpty then lineWords [] cs else cur.reverse :: lineWords [] cs
    else lineWords (c :: cur) cs

/-- The value of a digit in a base, if it is one. -/
def digitValue (base : Nat) (c : Char) : Option Nat :=
  let n := c.toNat
  let v := if 48 ≤ n ∧ n ≤ 57 then some (n - 48)
    else if 65 ≤ n ∧ n ≤ 70 then some (n - 55)
    else if 97 ≤ n ∧ n ≤ 102 then some (n - 87)
    else none
  v.filter (· < base)

/-- The number a list of digits writes, most significant first. -/
def digitsValue (base : Nat) (acc : Nat) : List Char → Option Nat
  | [] => some acc
  | c :: cs => (digitValue base c).bind fun d => digitsValue base (acc * base + d) cs

/-- "decimal or 0x-hex", with no sign (R76). -/
def numberOf : List Char → Option Nat
  | [] => none
  | '0' :: 'x' :: d :: ds => digitsValue 16 0 (d :: ds)
  | ds => digitsValue 10 0 ds

/-- Read one line of R76. -/
def parseLine (l : List Char) : Except AsmError AsmCmd :=
  match lineWords [] (stripComment l) with
  | [m] =>
    if m = ['I', 'N', 'I', 'T'] then .ok .init
    else if m = ['T', 'A', 'R', 'E'] then .ok .tare
    else if m = ['R', 'E', 'A', 'D', '_', 'R', 'A', 'W'] then .ok .readRaw
    else if m = ['G', 'E', 'T', '_', 'W', 'E', 'I', 'G', 'H', 'T'] then .ok .getWeight
    else .error .notACommand
  | [m, n] =>
    if m = ['D', 'E', 'C', 'O', 'D', 'E'] then
      match numberOf n with
      | some v => .ok (.decode v)
      | none => .error .notACommand
    else .error .notACommand
  | _ => .error .notACommand

/-- Assemble the text of one line (R76). -/
def assembleLine (l : List Char) : Except AsmError Word :=
  match parseLine l with
  | .ok a => assemble a
  | .error e => .error e

/-- Assemble a program, "a sequence of commands" (R76), line by line; the first error ends it. -/
def assembleProgram : List (List Char) → Except AsmError (List Word)
  | [] => .ok []
  | l :: ls =>
    match assembleLine l, assembleProgram ls with
    | .ok w, .ok ws => .ok (w :: ws)
    | .error e, _ => .error e
    | _, .error e => .error e

end Sys2Proof
end

