-- ==== Sys2Proof/Machine/Operands.lean ====
section
/-! DEFINITION. The arithmetic of the block: number conversions (00_scope.md R10), the shift of one sampled bit
(40_acquisition.md R106), the sign decoder (41_sign_decoder.md R140), the tare mean and the weight mask
(42_tare_weight.md R162, R167). Pure functions of their arguments (R142). -/

namespace Sys2Proof

/-- `signed64(p)`: the integer a 64-bit pattern denotes (R10). -/
def signed64 (p : Word64) : Int := p.toInt

/-- `bits64(z)`: the pattern of `z mod 2^64` (R10). -/
def bits64 (z : Int) : Word64 := BitVec.ofInt 64 z

/-- `quot(a, b)`: the quotient truncated toward zero (R10, D27). -/
def quot (a : Int) (b : Nat) : Int := a.sign * (a.natAbs / b : Nat)

/-- `{ACC[22:0], b}`: shift one sampled bit in at the low end (R106). -/
def shiftIn (acc : Raw) (b : Bool) : Raw := acc.extractLsb' 0 23 ++ BitVec.ofBool b

/-- `decode24` (R140). -/
def decode24 (m : Raw) : Int :=
  if m[23] = false then (m.toNat : Int)
  else -((((~~~m) &&& 0xFFFFFF#24).toNat : Int) + 1)

/-- The difference `d` of R165, exact: the document's WeightReading, which no register holds (R168). -/
def weightDiff (a : Raw) (offset : Word64) : Int := decode24 a - signed64 offset

/-- `zext_64(bits64(d)[15:0])`: the mask of R165, R167. -/
def mask16 (d : Int) : Word64 := ((bits64 d).extractLsb' 0 16).setWidth 64

/-- The sum a TARE reaches with one more frame, exact (R160). -/
def tareSum (sum : Word64) (a : Raw) : Int := signed64 sum + decode24 a

/-- The tare mean (R162). -/
def tareMean (s : Int) (nTare : Nat) : Word64 := bits64 (quot s nTare)

end Sys2Proof
end

