-- ==== Sys2Proof/Config.lean ====
section
/-! DEFINITION. The configuration of 00_scope.md R6 as plain data with its defaults, the levels of the input
ports of 10_state.md R33 at one edge, and the free value that stands for levels nobody has named. -/

namespace Sys2Proof

/-- A duration, or a threshold in time, as the fraction `num / den` of the unit its parameter names (µs or ms).
DEDUCED, log 3: R6 says "real"; a fraction reaches every tick count a real does (R7 rounds up to whole ticks). -/
structure Duration where
  num : Nat
  den : Nat
  deriving DecidableEq, Repr

/-- A whole number of units. -/
def Duration.whole (n : Nat) : Duration := ⟨n, 1⟩

/-- The parameters of R6, one field a row, in the table's order. `none` stands for `NONE`
(`READY_TIMEOUT_POLLS`) and for a threshold left OPEN (`T_PD_US`, `T_DV_US`). -/
structure Config where
  fSysHz : Nat
  tPollUs : Duration
  tHighUs : Duration
  tLowUs : Duration
  tSettleMs : Duration
  tRestMs : Duration
  nTare : Nat
  readyTimeoutPolls : Option Nat
  syncStages : Nat
  tPdUs : Option Duration
  tDvUs : Option Duration
  deriving DecidableEq, Repr

/-- The defaults of R6 at a given `F_SYS_HZ`, for which R6 gives none (D11: OPEN). -/
def Config.defaults (fSysHz : Nat) : Config where
  fSysHz := fSysHz
  tPollUs := .whole 1
  tHighUs := .whole 1
  tLowUs := .whole 1
  tSettleMs := .whole 100
  tRestMs := .whole 10
  nTare := 10
  readyTimeoutPolls := none
  syncStages := 2
  tPdUs := none
  tDvUs := none

/-- Timing configuration 4M of 95_test_vectors.md: 4 MHz and every default. -/
def Config.timing4M : Config := .defaults 4000000

/-- The levels of the block's input ports just before one rising edge of `sys_clk` (R33). -/
structure PortIn where
  /-- `rst`, active high -/
  rst : Bool
  /-- `cmd_valid` -/
  cmdValid : Bool
  /-- `cmd` -/
  cmd : Word
  /-- `data_pin`: the converter's level, `true` = high -/
  dataPin : Bool
  deriving DecidableEq, Repr, Inhabited

/-- FREE VALUE (log 5). What the caller and the converter drive at edge `n` where no entry of `State.edges` names it:
"a free input (a draw) of the step, chosen by no rule of this spec" (R214; U2, U9). Nothing is known of it. -/
opaque Config.portDraw : Nat → PortIn

end Sys2Proof
end

