-- ==== Sys2Proof/Machine/State.lean ====
section
/-! DEFINITION. The block's registers as plain data (10_state.md R20), with the configuration it is built with and
the levels its environment drives; the reasons a step stops; the state after reset (70_reset_and_hazards.md R230). -/

namespace Sys2Proof.Machine

/-- `FSM`: the phase the controller is in, the block's program counter (R22). -/
inductive FSM where
  | idle | settle | wait | pollHold | high | low | cselHigh | cselLow | rest
  deriving DecidableEq, Repr

/-- `OP`: the command in progress, or the last one that ran (R20). -/
inductive OpKind where
  | none | init | tare | readRaw | getWeight
  deriving DecidableEq, Repr

/-- The error codes of R201 that are produced. -/
inductive ErrCode where
  | none | illegal | notInit | timeout
  deriving DecidableEq, Repr

/-- The state: the sixteen registers of R20 under their names there, and the model's own `cfg`, `edges` and `edgeNo`
(log 1, log 5). -/
structure State where
  /-- edges gone by; picks the free levels where `edges` is used up (log 5) -/
  edgeNo : Nat
  /-- the input ports' levels at the coming edges, nearest first (log 5) -/
  edges : List PortIn
  /-- the configuration of R6; no step changes it (log 1) -/
  cfg : Config
  /-- `SYNC`, its flip-flops from `SYNC[0]` (newest) to `SYNC[SYNC_STAGES−1]` (R115; log 8) -/
  sync : List Bool
  /-- `FSM` (R22) -/
  fsm : FSM
  /-- `CLOCK_PIN` (R39) -/
  clockPin : Bool
  /-- `OP` (R20) -/
  op : OpKind
  /-- `INIT_DONE` (R34) -/
  initDone : Bool
  /-- `DONE` (R35) -/
  done : Bool
  /-- `ERR`, a 3-bit code (R36, R201) -/
  err : BitVec 3
  /-- `TIMER`: ticks left in the phase, less one (R30) -/
  timer : BitVec 32
  /-- `POLLCNT`: high polls of the frame, when there is a timeout (R31) -/
  pollCnt : BitVec 32
  /-- `BITCNT`: data pulses issued in the frame (R29) -/
  bitCnt : BitVec 5
  /-- `TCOUNT`: frames the TARE has completed (R32) -/
  tCount : BitVec 16
  /-- `RAW` (R28) -/
  raw : Raw
  /-- `ACC`: the accumulator of the frame (R29) -/
  acc : Raw
  /-- `TSUM`: running sum of the TARE's decoded readings (R32) -/
  tSum : Word64
  /-- `TARE_OFFSET` (R26) -/
  tareOffset : Word64
  /-- `RESULT` (R27) -/
  result : Word64
  deriving DecidableEq, Repr

/-- Why a step stops with a fault: the state matches no row of R112's table. Raised by `step` alone, from states no
run after reset reaches (R112: "exactly one row applies at every edge"); safe (log 7). -/
inductive Fault where
  /-- WAIT, a high poll, and `POLLCNT + 1` is past `READY_TIMEOUT_POLLS`. Raised by the WAIT row; safe. -/
  | pollCountPastBound
  /-- LOW ends with `BITCNT` above 24. Raised by the LOW row; safe. -/
  | bitCountPast24
  /-- A frame completes with `OP` NONE or INIT. Raised by the CSEL_LOW row; safe. -/
  | noCompletionForOp
  deriving DecidableEq, Repr

/-- Why a step gives no meaning. -/
inductive Refusal where
  /-- An instruction the model gives no meaning to yet: raised by an arm of `exec`, and no arm raises it; safe. -/
  | notModelled (mnemonic : String)
  /-- The configuration breaks R6's domains or R8: "The model refuses a configuration that breaks any of these".
  Raised by `step` before anything else; safe (log 4). -/
  | badConfig
  deriving DecidableEq, Repr

/-- The state after reset under a configuration: the reset column of R20 (R230). -/
def State.resetWith (c : Config) : State where
  fsm := .idle
  op := .none
  timer := 0#32
  bitCnt := 0#5
  acc := 0#24
  pollCnt := 0#32
  tCount := 0#16
  tSum := 0#64
  tareOffset := 0#64
  result := 0#64
  raw := 0#24
  initDone := false
  done := false
  err := 0#3
  clockPin := false
  sync := List.replicate c.syncStages true
  cfg := c
  edges := []
  edgeNo := 0

/-- The machine right after reset, under timing configuration 4M (DESIGN CHOICE, log 2: R6 leaves `F_SYS_HZ` OPEN). -/
def State.reset : State := .resetWith .timing4M

end Sys2Proof.Machine
end

