-- ==== Sys2Proof/Machine/Flags.lean ====
section
/-! DEFINITION. The flags and what the caller sees of them: BUSY and cmd_ready (10_state.md R23), the status word (R24),
the error codes (60_exceptions.md R201), the output ports (R33). -/

namespace Sys2Proof.Machine

/-- The code of an error (R201). -/
def ErrCode.code : ErrCode → BitVec 3
  | .none => 0#3
  | .illegal => 1#3
  | .notInit => 2#3
  | .timeout => 3#3

/-- `BUSY = (FSM ≠ IDLE)` (R23). -/
def State.busy (s : State) : Bool := decide (s.fsm ≠ .idle)

/-- `cmd_ready = ¬BUSY` (R23). -/
def State.cmdReady (s : State) : Bool := !s.busy

/-- `status = {26'b0, ERR, DONE, INIT_DONE, BUSY}` (R24). -/
def State.status (s : State) : BitVec 32 :=
  0#26 ++ s.err ++ BitVec.ofBool s.done ++ BitVec.ofBool s.initDone ++ BitVec.ofBool s.busy

/-- The output ports of R33. -/
structure PortOut where
  cmdReady : Bool
  status : BitVec 32
  result : Word64
  raw : Raw
  tareOffset : Word64
  clockPin : Bool
  deriving DecidableEq, Repr

/-- What the ports show: functions of registered state, read without side effect (R33, R58). -/
def State.ports (s : State) : PortOut where
  cmdReady := s.cmdReady
  status := s.status
  result := s.result
  raw := s.raw
  tareOffset := s.tareOffset
  clockPin := s.clockPin

end Sys2Proof.Machine
end

