-- ==== Sys2Proof/Machine/Timing.lean ====
section
/-! DEFINITION. Tick counts (00_scope.md R7) and the configurations the model refuses (R6's domains, R8). -/

namespace Sys2Proof

/-- `max(1, ceil(n / d))` for `d > 0`: the rounding of R7. -/
def ticksOf (n d : Nat) : Nat := max 1 ((n + d - 1) / d)

/-- `ticks(d)` of R7 for a duration given in microseconds. -/
def Config.ticksUs (c : Config) (d : Duration) : Nat := ticksOf (d.num * c.fSysHz) (1000000 * d.den)

/-- `ticks(d)` of R7 for a duration given in milliseconds. -/
def Config.ticksMs (c : Config) (d : Duration) : Nat := ticksOf (d.num * c.fSysHz) (1000 * d.den)

/-- `T_POLL` (R7). -/
def Config.tPoll (c : Config) : Nat := c.ticksUs c.tPollUs

/-- `T_HIGH` (R7). -/
def Config.tHigh (c : Config) : Nat := c.ticksUs c.tHighUs

/-- `T_LOW` (R7). -/
def Config.tLow (c : Config) : Nat := c.ticksUs c.tLowUs

/-- `T_SETTLE` (R7). -/
def Config.tSettle (c : Config) : Nat := c.ticksMs c.tSettleMs

/-- `T_REST` (R7). -/
def Config.tRest (c : Config) : Nat := c.ticksMs c.tRestMs

/-- A fraction that is a number. -/
def Duration.defined (d : Duration) : Bool := decide (0 < d.den)

/-- "positive real" of R6. -/
def Duration.positive (d : Duration) : Bool := d.defined && decide (0 < d.num)

/-- The domain column of R6 (log 4). `N_TARE` and `T_SETTLE_MS` have theirs in R8 (1) and (2). -/
def Config.inDomain (c : Config) : Bool :=
  decide (0 < c.fSysHz) && (c.tPollUs.positive && (c.tHighUs.positive && (c.tLowUs.positive &&
    (c.tSettleMs.defined && (c.tRestMs.positive &&
    ((c.readyTimeoutPolls.all fun k => decide (1 ≤ k ∧ k ≤ 2 ^ 32 - 1)) &&
    (c.tPdUs.all Duration.positive && c.tDvUs.all Duration.defined)))))))

/-- R8 (1): `1 ≤ N_TARE ≤ 65535`. -/
def Config.tareCountOk (c : Config) : Bool := decide (1 ≤ c.nTare ∧ c.nTare ≤ 65535)

/-- R8 (2): `T_SETTLE_MS ≥ 50`. -/
def Config.settleOk (c : Config) : Bool := decide (50 * c.tSettleMs.den ≤ c.tSettleMs.num)

/-- R8 (3): every tick count of R7 is at most 2^32. -/
def Config.ticksFit (c : Config) : Bool :=
  decide (c.tPoll ≤ 2 ^ 32 ∧ c.tHigh ≤ 2 ^ 32 ∧ c.tLow ≤ 2 ^ 32 ∧ c.tSettle ≤ 2 ^ 32 ∧ c.tRest ≤ 2 ^ 32)

/-- R8 (4): `T_HIGH ≥ SYNC_STAGES + 1`. -/
def Config.syncFits (c : Config) : Bool := decide (c.syncStages + 1 ≤ c.tHigh)

/-- R8 (5): when `T_DV_US` is given, `(T_HIGH − SYNC_STAGES) / F_SYS_HZ ≥ T_DV_US·10^-6`. -/
def Config.dataValidOk (c : Config) : Bool :=
  c.tDvUs.all fun d => decide (d.num * c.fSysHz ≤ (c.tHigh - c.syncStages) * (1000000 * d.den))

/-- R8 (6): when `T_PD_US` is given, `T_HIGH / F_SYS_HZ < T_PD_US·10^-6`. -/
def Config.powerDownOk (c : Config) : Bool :=
  c.tPdUs.all fun d => decide (c.tHigh * (1000000 * d.den) < d.num * c.fSysHz)

/-- A configuration the model gives a meaning: R6's domains and the six constraints of R8. -/
def Config.valid (c : Config) : Bool :=
  c.inDomain && (c.tareCountOk && (c.settleOk && (c.ticksFit && (c.syncFits && (c.dataValidOk && c.powerDownOk)))))

end Sys2Proof
end

