-- ==== Sys2Proof/Machine/Ops.lean ====
section
/-! DEFINITION. The operations the meanings share: the ports' levels at an edge, the synchroniser, phases and their timer,
the clock pin, the start of a command, its completion, error entry, and reset. -/

namespace Sys2Proof.Machine

/-- The state type's answers. -/
abbrev Answer := Host.Outcome State Fault Refusal

/-! ### The environment and the synchroniser -/

/-- The levels of the input ports at the `j`-th edge from now (0 = the coming one): as `edges` names them, free past
its end (R214; log 5). -/
def State.portAt (s : State) (j : Nat) : PortIn := s.edges.getD j (Config.portDraw (s.edgeNo + j))

/-- `data_sync` at the coming edge when `data_pin` has this level: the oldest flip-flop of SYNC, or the pin itself when
`SYNC_STAGES = 0` (R115). -/
def State.dataSync (s : State) (dataPin : Bool) : Bool := s.sync.getLastD dataPin

/-- What every edge does beside its row: `SYNC <- {SYNC[SYNC_STAGES−2:0], data_pin}` (R115), and the edge's levels are
used up. -/
def State.clocked (s : State) : State :=
  { s with sync := ((s.portAt 0).dataPin :: s.sync).dropLast, edges := s.edges.tail, edgeNo := s.edgeNo + 1 }

/-- A rising edge with `rst = 1`: every register takes its reset value (R230); configuration and environment stay. -/
def State.resetEdge (s : State) : State :=
  { State.resetWith s.cfg with edges := s.edges.tail, edgeNo := s.edgeNo + 1 }

/-! ### Phases -/

/-- Enter a phase of `d` ticks: `FSM <- f; TIMER <- d − 1` (R30). -/
def State.enter (s : State) (f : FSM) (d : Nat) : State := { s with fsm := f, timer := BitVec.ofNat 32 (d - 1) }

/-- A tick of a timed phase: count down, or take the exit action when TIMER is 0 (R30, R112). -/
def State.timed (s : State) (exit : State → Answer) : Answer :=
  if s.timer = 0#32 then exit s else .next { s with timer := s.timer - 1#32 }

/-- `PinWrite(clock_pin, l)` (R11). -/
def State.pinWrite (s : State) (l : Bool) : State := { s with clockPin := l }

/-- Write the frame's accumulator and pulse count together (R103, R106). -/
def State.withAcc (s : State) (acc : Raw) (bitCnt : BitVec 5) : State := { s with acc := acc, bitCnt := bitCnt }

/-- Write POLLCNT (R31). -/
def State.withPollCnt (s : State) (n : BitVec 32) : State := { s with pollCnt := n }

/-- Move to a phase that does not read TIMER (IDLE, WAIT): `FSM <- f` (R30). -/
def State.goto (s : State) (f : FSM) : State := { s with fsm := f }

/-! ### The life of a command -/

/-- What every acceptance does first: `DONE <- 0; ERR <- NONE` (R100). -/
def State.acceptance (s : State) : State := { s with done := false, err := ErrCode.none.code }

/-- A command completes without error: `DONE <- 1; FSM <- IDLE` (R35). -/
def State.finish (s : State) : State := { s with done := true, fsm := .idle }

/-- `raise Error(code)`: `ERR <- code; FSM <- IDLE`, all else kept (R206). DONE is 0 wherever an error fires: acceptance
has cleared it. -/
def State.raise (s : State) (e : ErrCode) : State := { s with err := e.code, fsm := .idle }

/-- A command that reads the converter starts: `OP <- c; POLLCNT <- 0; FSM <- WAIT` (R100). -/
def State.startFrames (s : State) (c : OpKind) : State := { s with op := c, pollCnt := 0#32, fsm := .wait }

/-- Acceptance of a command that needs INIT_DONE: run `start`, or raise NOT_INIT (R100, R203). -/
def State.ifSettled (s : State) (start : State → State) : Answer :=
  .next (if s.initDone then start s.acceptance else s.acceptance.raise .notInit)

end Sys2Proof.Machine
end

