-- ==== Sys2Proof/Machine/Decoder.lean ====
section
/-! DEFINITION. DECODE (41_sign_decoder.md R143). -/

namespace Sys2Proof.Machine

/-- DECODE at its acceptance edge: `RESULT <- bits64(decode24(m)); DONE <- 1`; FSM stays IDLE (R100, R143). INIT_DONE is
not read. -/
def execDecode (m : Raw) (s : State) : Answer :=
  .next { s.acceptance with result := bits64 (decode24 m), done := true }

end Sys2Proof.Machine
end

