-- ==== Sys2Proof/Machine/Init.lean ====
section
/-! DEFINITION. INIT: the power-up settle (40_acquisition.md R101). -/

namespace Sys2Proof.Machine

/-- INIT at its acceptance edge: `OP <- INIT; INIT_DONE <- 0; FSM <- SETTLE; TIMER <- T_SETTLE − 1` (R100). -/
def execInit (s : State) : Answer :=
  .next (State.enter { s.acceptance with op := .init, initDone := false } .settle s.cfg.tSettle)

/-- The edge that ends the settle: `INIT_DONE <- 1; DONE <- 1; FSM <- IDLE` (R101). -/
def settleExit (s : State) : Answer := .next (State.finish { s with initDone := true })

end Sys2Proof.Machine
end

