-- ==== Sys2Proof/Machine/ReadRaw.lean ====
section
/-! DEFINITION. READ_RAW (40_acquisition.md R111). -/

namespace Sys2Proof.Machine

/-- READ_RAW at its acceptance edge: start a frame's ready-wait, or NOT_INIT (R100, R111). -/
def execReadRaw (s : State) : Answer := s.ifSettled (fun s => s.startFrames .readRaw)

/-- READ_RAW's completion: `RAW <- a; RESULT <- bits64(decode24(a)); DONE <- 1; FSM <- IDLE` with `a = ACC` (R108, R111). -/
def completeReadRaw (s : State) : Answer :=
  .next (State.finish { s with raw := s.acc, result := bits64 (decode24 s.acc) })

end Sys2Proof.Machine
end

