-- ==== Sys2Proof/Machine/Tare.lean ====
section
/-! DEFINITION. TARE (42_tare_weight.md R160 to R164). -/

namespace Sys2Proof.Machine

/-- TARE at its acceptance edge: `TCOUNT <- 0; TSUM <- 0` and a frame's ready-wait, or NOT_INIT (R100, R160). -/
def execTare (s : State) : Answer :=
  s.ifSettled (fun s => State.startFrames { s with tCount := 0#16, tSum := 0#64 } .tare)

/-- The completion of one frame of a TARE: add the reading; then rest, or after the last frame write the mean (R160). -/
def completeTareFrame (s : State) : Answer :=
  let sum := tareSum s.tSum s.acc
  let counted := { s with tSum := bits64 sum, tCount := s.tCount + 1#16 }
  if s.tCount.toNat + 1 < s.cfg.nTare then .next (counted.enter .rest s.cfg.tRest)
  else .next (State.finish { counted with tareOffset := tareMean sum s.cfg.nTare, raw := s.acc })

/-- REST ends: `POLLCNT <- 0; FSM <- WAIT`, the next frame's ready-wait (R161). -/
def restExit (s : State) : Answer := .next ((s.withPollCnt 0#32).goto .wait)

end Sys2Proof.Machine
end

