-- ==== Sys2Proof/Machine/Weight.lean ====
section
/-! DEFINITION. GET_WEIGHT (42_tare_weight.md R165 to R168). -/

namespace Sys2Proof.Machine

/-- GET_WEIGHT at its acceptance edge: start a frame's ready-wait, or NOT_INIT (R100, R165). -/
def execGetWeight (s : State) : Answer := s.ifSettled (fun s => s.startFrames .getWeight)

/-- GET_WEIGHT's completion: RAW gets the sample, RESULT the masked difference (R165, R167). -/
def completeGetWeight (s : State) : Answer :=
  .next (State.finish { s with raw := s.acc, result := mask16 (weightDiff s.acc s.tareOffset) })

/-- The unmasked difference as the caller recomputes it after a GET_WEIGHT: `decode24(RAW) − TARE_OFFSET` (R168). -/
def State.unmaskedWeight (s : State) : Int := weightDiff s.raw s.tareOffset

end Sys2Proof.Machine
end

