-- ==== Sys2Proof/Machine/Dispatch.lean ====
section
/-! DEFINITION. What the acceptance edge does for each command (40_acquisition.md R100): one arm per constructor. -/

namespace Sys2Proof.Machine

-- `step` calls exec at an acceptance edge only: rst = 0, cmd_valid = 1, FSM = IDLE (R100; log 12).
def exec (i : Instr) (s : State) : Host.Outcome State Fault Refusal :=
  match i with
  | .init => Sys2Proof.Machine.execInit s
  | .tare => Sys2Proof.Machine.execTare s
  | .readRaw => Sys2Proof.Machine.execReadRaw s
  | .getWeight => Sys2Proof.Machine.execGetWeight s
  | .decode m => Sys2Proof.Machine.execDecode m s

end Sys2Proof.Machine
end

