-- ==== Sys2Proof/Machine/Frame.lean ====
section
/-! DEFINITION. The frame: ready-wait, 24 data pulses, the channel-select pulse (40_acquisition.md R102 to R107), one
definition for each row of R112's table that is not a bare countdown. `d` is `data_sync` at the edge. -/

namespace Sys2Proof.Machine

/-- WAIT, `data_sync = 0`: ready; the first data pulse starts at this edge (R103, R105). -/
def pollLow (s : State) : Answer :=
  .next (((s.withAcc 0#24 0#5).pinWrite true).enter .high s.cfg.tHigh)

/-- WAIT, `data_sync = 1`: hold and poll again, or TIMEOUT at the last poll allowed (R103, R104). -/
def pollHigh (s : State) : Answer :=
  match s.cfg.readyTimeoutPolls with
  | none => .next (s.enter .pollHold s.cfg.tPoll)
  | some k =>
    if s.pollCnt.toNat + 1 < k then
      .next ((s.withPollCnt (s.pollCnt + 1#32)).enter .pollHold s.cfg.tPoll)
    else if s.pollCnt.toNat + 1 = k then .next (s.raise .timeout)
    else .fault .pollCountPastBound

/-- The one-tick WAIT phase: one poll (R103). -/
def poll (d : Bool) (s : State) : Answer := if d then pollHigh s else pollLow s

/-- POLL_HOLD ends: back to WAIT for the next poll (R103). -/
def pollHoldExit (s : State) : Answer := .next (s.goto .wait)

/-- HIGH ends: sample, shift, count, falling edge, all at this edge (R106). -/
def highExit (d : Bool) (s : State) : Answer :=
  .next (((s.withAcc (shiftIn s.acc d) (s.bitCnt + 1#5)).pinWrite false).enter .low s.cfg.tLow)

/-- LOW ends: the next data pulse, or the channel-select pulse after the 24th (R105, R107). -/
def lowExit (s : State) : Answer :=
  if s.bitCnt.toNat < 24 then .next ((s.pinWrite true).enter .high s.cfg.tHigh)
  else if s.bitCnt.toNat = 24 then .next ((s.pinWrite true).enter .cselHigh s.cfg.tHigh)
  else .fault .bitCountPast24

/-- CSEL_HIGH ends: falling edge without a sample (R107). -/
def cselHighExit (s : State) : Answer := .next ((s.pinWrite false).enter .cselLow s.cfg.tLow)

end Sys2Proof.Machine
end

