-- ==== Sys2Proof/Machine/Tick.lean ====
section
/-! DEFINITION. One edge of `sys_clk` with `rst = 0`: acceptance (40_acquisition.md R100), frame completion (R108) and the
transition table (R112). -/

namespace Sys2Proof.Machine

/-- Acceptance of a word: the decoded command's meaning, or the ILLEGAL error and no other effect (R100, R202). -/
def accept (w : Word) (s : State) : Answer :=
  match decodeCmd w with
  | .cmd i => exec i s
  | .illegal _ => .next (s.acceptance.raise .illegal)

/-- The completion action at the edge that ends CSEL_LOW, chosen by OP (R108). -/
def frameComplete (s : State) : Answer :=
  match s.op with
  | .readRaw => completeReadRaw s
  | .getWeight => completeGetWeight s
  | .tare => completeTareFrame s
  | .none | .init => .fault .noCompletionForOp

/-- The row of R112's table that the edge takes; `d` is `data_sync` before the edge. -/
def row (p : PortIn) (d : Bool) (s : State) : Answer :=
  match s.fsm with
  | .idle => if p.cmdValid then accept p.cmd s else .next s
  | .settle => s.timed settleExit
  | .wait => poll d s
  | .pollHold => s.timed pollHoldExit
  | .high => s.timed (highExit d)
  | .low => s.timed lowExit
  | .cselHigh => s.timed cselHighExit
  | .cselLow => s.timed frameComplete
  | .rest => s.timed restExit

/-- One rising edge of `sys_clk`: reset wins over everything (R205, R208, R230); else SYNC shifts and one row applies,
both reading the values from before the edge (R112, R115). -/
def tick (s : State) : Answer :=
  if (s.portAt 0).rst then .next s.resetEdge
  else row (s.portAt 0) (s.dataSync (s.portAt 0).dataPin) s.clocked

/-- The levels with which the caller offers a word at the coming edge: `rst = 0`, `cmd_valid = 1`, `cmd = w`; `data_pin`
as `edges` has it, high where it has none (DESIGN CHOICE, log 6). -/
def State.offering (s : State) (w : Word) : PortIn where
  rst := false
  cmdValid := true
  cmd := w
  dataPin := match s.edges with
    | [] => true
    | p :: _ => p.dataPin

/-- `s` with a word offered at the coming edge, and IDLE so that the edge accepts it (R100; log 6). -/
def State.withOffer (s : State) (w : Word) : State :=
  { s with fsm := .idle, edges := s.offering w :: s.edges.tail }

end Sys2Proof.Machine
end

