-- ==== Sys2Proof/Machine/Step.lean ====
section
/-! DEFINITION. One step: one tick of `sys_clk` (00_scope.md R3, 40_acquisition.md R112). -/

namespace Sys2Proof.Machine

/-- One tick, under a configuration the model gives a meaning (R8); any other is refused. -/
def step (s : State) : Host.Outcome State Fault Refusal :=
  if s.cfg.valid then tick s else .refused .badConfig

/-- `s` with the table's word offered on the command port, so that the next step accepts and runs it (log 6). -/
def State.withFetchWord (s : State) (nbits w : Nat) : State := s.withOffer (tableWord nbits w)

end Sys2Proof.Machine
end

