-- ==== Sys2Proof/Safety.lean ====
section
/-! DEFINITION. The terms claims are stated in: runs of ticks, the invariant of every state a run after reset reaches,
the pin events of a run (40_acquisition.md R109), and the named assumptions about the converter (60_exceptions.md R214). -/

namespace Sys2Proof

/-! ### Durations in ticks (R113, R245) -/

/-- The period of a pulse. -/
def Config.pulseTicks (c : Config) : Nat := c.tHigh + c.tLow

/-- Ticks from the first poll to the poll after `k` high ones (R113). -/
def Config.pollTicks (c : Config) (k : Nat) : Nat := k * (1 + c.tPoll)

/-- Ticks of a frame with `k` high polls, from its entry into WAIT to its completion edge (R113, R245). -/
def Config.frameTicks (c : Config) (k : Nat) : Nat := c.pollTicks k + 1 + 25 * c.pulseTicks

/-- `k` high polls do not reach the timeout (R104). -/
def Config.pollsAllowed (c : Config) (k : Nat) : Prop := ∀ bound, c.readyTimeoutPolls = some bound → k < bound

/-- Ticks from a frame's entry into WAIT to its TIMEOUT edge (R113, R245). -/
def Config.timeoutTicks (c : Config) (bound : Nat) : Nat := c.pollTicks (bound - 1) + 1

/-- Ticks from a TARE's acceptance to the entry into WAIT that follows the frames `fs` and their rests (R160, R161). -/
def Config.restartTicks (c : Config) (fs : List (Nat × Raw)) : Nat :=
  (fs.map fun f => c.frameTicks f.1 + c.tRest).sum

/-- Ticks of a TARE from acceptance to completion: its frames, and a rest between two (R245). -/
def Config.tareTicks (c : Config) (fs : List (Nat × Raw)) : Nat :=
  (fs.map fun f => c.frameTicks f.1).sum + (fs.length - 1) * c.tRest

end Sys2Proof

namespace Sys2Proof.Machine

/-! ### Runs -/

/-- `n` ticks, ending early at a stop. -/
def runFor : Nat → State → Answer
  | 0, s => .next s
  | n + 1, s =>
    match step s with
    | .next t => runFor n t
    | .fault r => .fault r
    | .refused r => .refused r

/-- `rst` stays 0 at the next `n` edges. -/
def State.noReset (s : State) (n : Nat) : Prop := ∀ j < n, (s.portAt j).rst = false

/-- The level read as `data_sync` at the `j`-th edge from now (0 = the coming one) when no reset comes before it: what
SYNC already holds, oldest first, then `data_pin` as it was `SYNC_STAGES` edges earlier (R115). -/
def State.seen (s : State) (j : Nat) : Bool :=
  if j < s.sync.length then s.sync.getD (s.sync.length - 1 - j) true
  else (s.portAt (j - s.sync.length)).dataPin

/-- SYNC after `n` edges without reset, from its contents and the levels to come (R115). -/
def syncAfter (sync : List Bool) (edges : List PortIn) (edgeNo : Nat) : Nat → List Bool
  | 0 => sync
  | n + 1 => ((edges.getD n (Config.portDraw (edgeNo + n))).dataPin :: syncAfter sync edges edgeNo n).dropLast

/-- `s` with its environment `n` edges on and every register but SYNC as it was: what `n` edges do when no row of
R112's table acts. -/
def State.clockedBy (s : State) (n : Nat) : State :=
  { s with sync := syncAfter s.sync s.edges s.edgeNo n, edges := s.edges.drop n, edgeNo := s.edgeNo + n }

/-! ### The invariant -/

/-- The phases of a frame, its ready-wait included. -/
def FSM.inFrame : FSM → Bool
  | .wait | .pollHold | .high | .low | .cselHigh | .cselLow => true
  | .idle | .settle | .rest => false

/-- The phases between a frame's first rising edge and its completion (R232). -/
def FSM.midFrame : FSM → Bool
  | .high | .low | .cselHigh | .cselLow => true
  | .idle | .settle | .wait | .pollHold | .rest => false

/-- The commands that run frames. -/
def OpKind.runsFrames : OpKind → Bool
  | .tare | .readRaw | .getWeight => true
  | .none | .init => false

/-- The length in ticks of a timed phase (R30, R112); IDLE and WAIT do not read TIMER. -/
def phaseTicks (c : Config) : FSM → Option Nat
  | .idle | .wait => none
  | .settle => some c.tSettle
  | .pollHold => some c.tPoll
  | .high | .cselHigh => some c.tHigh
  | .low | .cselLow => some c.tLow
  | .rest => some c.tRest

/-- What holds of every state that a run from reset reaches. -/
structure State.Inv (s : State) : Prop where
  /-- the configuration is one the model gives a meaning (R8) -/
  cfgValid : s.cfg.valid = true
  /-- SYNC has `SYNC_STAGES` flip-flops (R20) -/
  syncLength : s.sync.length = s.cfg.syncStages
  /-- R39 -/
  clock : s.clockPin = true ↔ s.fsm = .high ∨ s.fsm = .cselHigh
  /-- TIMER is below the length of the phase it times (R30) -/
  timer : ∀ d, phaseTicks s.cfg s.fsm = some d → s.timer.toNat < d
  /-- "`BITCNT` is never above 24" (R112) -/
  bitCnt : s.bitCnt.toNat ≤ 24
  /-- in HIGH a data pulse is under way, fewer than 24 are done (R105) -/
  bitCntHigh : s.fsm = .high → s.bitCnt.toNat < 24
  /-- in LOW at least one is done -/
  bitCntLow : s.fsm = .low → 0 < s.bitCnt.toNat
  /-- in the channel-select pulse all 24 are done (R107) -/
  bitCntCsel : s.fsm = .cselHigh ∨ s.fsm = .cselLow → s.bitCnt.toNat = 24
  /-- "After `i + 1` shifts, the bits above `i` are still 0" (R106) -/
  acc : s.fsm = .high ∨ s.fsm = .low → s.acc.toNat < 2 ^ s.bitCnt.toNat
  /-- "`OP` is never NONE or INIT in WAIT, HIGH, LOW, CSEL_HIGH, CSEL_LOW or REST" (R112) -/
  opFrame : s.fsm.inFrame = true → s.op.runsFrames = true
  opRest : s.fsm = .rest → s.op = .tare
  opSettle : s.fsm = .settle → s.op = .init
  /-- POLLCNT stays 0 without a timeout, and below the bound with one (R31, R104) -/
  pollNone : s.cfg.readyTimeoutPolls = none → s.pollCnt = 0#32
  pollSome : ∀ k, s.cfg.readyTimeoutPolls = some k → s.pollCnt.toNat < k
  /-- DONE and ERR are clear while a command runs (R100) -/
  busyClean : s.fsm ≠ .idle → s.done = false ∧ s.err = 0#3
  /-- INIT_DONE is 0 during the settle and 1 during every other command (R34, R203) -/
  settling : s.fsm = .settle → s.initDone = false
  settled : s.fsm ≠ .idle → s.fsm ≠ .settle → s.initDone = true
  /-- ERR holds a code of R201; DONE and ERR are never both set (R36) -/
  errCode : s.err.toNat ≤ 3
  doneClean : s.done = true → s.err = 0#3
  /-- "every value TARE writes lies in `[−2^23, 2^23 − 1]`" (R26) -/
  offset : -2 ^ 23 ≤ signed64 s.tareOffset ∧ signed64 s.tareOffset ≤ 2 ^ 23 - 1
  /-- while a TARE runs, fewer than N_TARE frames are done and TSUM is a sum of TCOUNT readings (R32) -/
  tareCount : s.fsm ≠ .idle → s.op = .tare → s.tCount.toNat < s.cfg.nTare
  tareSum : s.fsm ≠ .idle → s.op = .tare →
    -2 ^ 23 * (s.tCount.toNat : Int) ≤ signed64 s.tSum ∧ signed64 s.tSum ≤ (2 ^ 23 - 1) * (s.tCount.toNat : Int)

/-! ### Pin events (R109) -/

/-- What happens on the two pins at an edge. -/
inductive PinEvent where
  /-- a poll that reads this level -/
  | poll (level : Bool)
  /-- a data sample of this level -/
  | sample (level : Bool)
  /-- a rising edge of `clock_pin` -/
  | rise
  /-- a falling edge of `clock_pin` -/
  | fall
  deriving DecidableEq, Repr

/-- The pin events of the edge from `s` to `t`: a read of `data_pin` where R112 reads `data_sync`, then the change of
`clock_pin`, if any. -/
def eventsAt (s t : State) : List PinEvent :=
  let d := s.dataSync (s.portAt 0).dataPin
  let live := !(s.portAt 0).rst
  (if live && decide (s.fsm = .wait) then [.poll d] else []) ++
  (if live && decide (s.fsm = .high) && decide (s.timer = 0#32) then [.sample d] else []) ++
  (if !s.clockPin && t.clockPin then [.rise] else []) ++
  (if s.clockPin && !t.clockPin then [.fall] else [])

/-- The pin events of `n` ticks, each with its tick; the first tick has the number `o`. -/
def pinTrace (o : Nat) : Nat → State → List (Nat × PinEvent)
  | 0, _ => []
  | n + 1, s =>
    match step s with
    | .next t => (eventsAt s t).map (fun e => (o, e)) ++ pinTrace (o + 1) n t
    | .fault _ | .refused _ => []

/-- Reset at the coming edge cuts a frame short, and the converter is no longer in step (R232). -/
def State.breaksFrame (s : State) : Bool := (s.portAt 0).rst && s.fsm.midFrame

/-! ### Frames and the converter's answers -/

/-- CONV_FRAME(v) of R214 with its polls: the frame that enters WAIT `o` ticks from now polls high `k` times, then
low, and its 24 samples are the bits of `v`, most significant first. -/
def State.convFrame (s : State) (o k : Nat) (v : Raw) : Prop :=
  (∀ j < k, s.seen (o + s.cfg.pollTicks j) = true) ∧
  s.seen (o + s.cfg.pollTicks k) = false ∧
  ∀ i < 24, s.seen (o + s.cfg.pollTicks k + s.cfg.tHigh + i * s.cfg.pulseTicks) = v.getLsbD (23 - i)

/-- The frames of a TARE, each as its high polls and its sample, with `T_REST` ticks between two (R160, R161). -/
def State.convTare (s : State) : Nat → List (Nat × Raw) → Prop
  | _, [] => True
  | o, f :: fs =>
    s.convFrame o f.1 f.2 ∧ s.cfg.pollsAllowed f.1 ∧
      s.convTare (o + s.cfg.frameTicks f.1 + s.cfg.tRest) fs

/-- The frame that enters WAIT `o` ticks from now never polls low within the timeout (R104). -/
def State.convTimeout (s : State) (o bound : Nat) : Prop :=
  s.cfg.readyTimeoutPolls = some bound ∧ ∀ j < bound, s.seen (o + s.cfg.pollTicks j) = true

/-- The sum of the readings of a TARE's frames (R162). -/
def readingSum (fs : List (Nat × Raw)) : Int := (fs.map fun f => decode24 f.2).sum

/-- The pin events of a frame that R109 lists, at the ticks of R113: polls, then 24 data pulses with a sample at each
falling edge, then a pulse without a sample. -/
def frameEvents (c : Config) (o k : Nat) (v : Raw) : List (Nat × PinEvent) :=
  let r := o + c.pollTicks k
  (List.range k).map (fun j => (o + c.pollTicks j, .poll true)) ++
  [(r, .poll false), (r, .rise)] ++
  (List.range 24).flatMap (fun i =>
    [(r + c.tHigh + i * c.pulseTicks, .sample (v.getLsbD (23 - i))), (r + c.tHigh + i * c.pulseTicks, .fall),
     (r + (i + 1) * c.pulseTicks, .rise)]) ++
  [(r + c.tHigh + 24 * c.pulseTicks, .fall)]

end Sys2Proof.Machine
end

