-- ==== Sys2Proof/Certificates/Slice0/Obligations.lean ====
section
/-! DEFINITION. The statements for the provers: what the block does, from the numbered rules of spec/. -/

open Sys2Proof Sys2Proof.Machine

/-! ### Encoding (30_encoding.md) -/

/-- R77, every row: the assembly, its word, the command the decoder reads; and the illegal words. -/
def Obligations.EncodingExamplesAgree : Prop :=
  (assemble .init = .ok 0x00000001#32 ∧ decodeCmd 0x00000001#32 = .cmd .init) ∧
  (assemble .tare = .ok 0x00000002#32 ∧ decodeCmd 0x00000002#32 = .cmd .tare) ∧
  (assemble .readRaw = .ok 0x00000003#32 ∧ decodeCmd 0x00000003#32 = .cmd .readRaw) ∧
  (assemble .getWeight = .ok 0x00000004#32 ∧ decodeCmd 0x00000004#32 = .cmd .getWeight) ∧
  (assemble (.decode 0x000000) = .ok 0x00000005#32 ∧ decodeCmd 0x00000005#32 = .cmd (.decode 0x000000#24)) ∧
  (assemble (.decode 0x000001) = .ok 0x00000105#32 ∧ decodeCmd 0x00000105#32 = .cmd (.decode 0x000001#24)) ∧
  (assemble (.decode 0x800000) = .ok 0x80000005#32 ∧ decodeCmd 0x80000005#32 = .cmd (.decode 0x800000#24)) ∧
  (assemble (.decode 0xFFFFFF) = .ok 0xFFFFFF05#32 ∧ decodeCmd 0xFFFFFF05#32 = .cmd (.decode 0xFFFFFF#24)) ∧
  (assemble (.decode 0x123456) = .ok 0x12345605#32 ∧ decodeCmd 0x12345605#32 = .cmd (.decode 0x123456#24)) ∧
  ∀ w ∈ [0x00000000#32, 0x00000006#32, 0x00000007#32, 0x00000008#32, 0x00000103#32], (decodeCmd w).toOption = none

/-- The decoder and the encoder are inverse: no bit of a command is dropped, and every legal word is the word of exactly
one command (R71, R72, R75). -/
def Obligations.DecodeExactlyInvertsEncode : Prop :=
  (∀ i : Instr, i.wellFormed = true ∧ decodeCmd (encode i) = .cmd i) ∧
  ∀ (w : Word) (i : Instr), decodeCmd w = .cmd i → w = encode i

/-- R72 and R73: a word selects a row of the opcode map when `(w & mask) = match`; only DECODE has an operand, bits 31:8;
the reserved codes select no command. -/
def Obligations.OpcodeMapSelectsRows : Prop :=
  ∀ w : Word,
    (decodeCmd w = .cmd .init ↔ w &&& 0xFFFFFFFF#32 = 0x00000001#32) ∧
    (decodeCmd w = .cmd .tare ↔ w &&& 0xFFFFFFFF#32 = 0x00000002#32) ∧
    (decodeCmd w = .cmd .readRaw ↔ w &&& 0xFFFFFFFF#32 = 0x00000003#32) ∧
    (decodeCmd w = .cmd .getWeight ↔ w &&& 0xFFFFFFFF#32 = 0x00000004#32) ∧
    (∀ m : Raw, decodeCmd w = .cmd (.decode m) ↔ w &&& 0x000000FF#32 = 0x00000005#32 ∧ m = w.extractLsb' 8 24) ∧
    (w &&& 0x00000007#32 = 0x00000000#32 ∨ w &&& 0x00000007#32 = 0x00000006#32 ∨ w &&& 0x00000007#32 = 0x00000007#32 →
      (decodeCmd w).toOption = none)

/-- R74 and R202: a word is illegal exactly on the grounds (a), (b), (c); accepted, it raises ILLEGAL and has no other
effect: DONE is cleared, ERR is 1, and all else is as the edge alone leaves it. No hypothesis on INIT_DONE: ILLEGAL
wins over NOT_INIT. -/
def Obligations.IllegalWordsOnlySetErr : Prop :=
  (∀ w : Word, (decodeCmd w).toOption = none ↔
    (opcOf w = 0b000#3 ∨ opcOf w = 0b110#3 ∨ opcOf w = 0b111#3) ∨ rsvOf w ≠ 0#5 ∨
      ((opcOf w = 0b001#3 ∨ opcOf w = 0b010#3 ∨ opcOf w = 0b011#3 ∨ opcOf w = 0b100#3) ∧ imm24Of w ≠ 0#24)) ∧
  ∀ s : State, s.cfg.valid = true → (s.portAt 0).rst = false → (s.portAt 0).cmdValid = true → s.fsm = .idle →
    (decodeCmd (s.portAt 0).cmd).toOption = none →
    step s = .next { s.clocked with done := false, err := 1#3 }

/-- R76 on abstract lines: an operand in range assembles to the word of its command, whose value is R76's formula; an
operand out of range is an assembly error. -/
def Obligations.AssemblerEmitsCommandWords : Prop :=
  (∀ a : AsmCmd, a.wellFormed = true → assemble a = .ok (encode a.toInstr)) ∧
  (∀ m : Nat, m ≤ 0xFFFFFF → assemble (.decode m) = .ok (BitVec.ofNat 32 (m * 256 + 5))) ∧
  ∀ m : Nat, 0xFFFFFF < m → assemble (.decode m) = .error .operandOutOfRange

/-! ### Configuration (00_scope.md) -/

/-- R7: each tick count is `max(1, ceil(d × F_SYS_HZ))` for its duration in seconds. -/
def Obligations.TickCountsRoundUp : Prop :=
  ∀ c : Config, 0 < c.tPollUs.den → 0 < c.tHighUs.den → 0 < c.tLowUs.den → 0 < c.tSettleMs.den → 0 < c.tRestMs.den →
    (c.tPoll : ℤ) = max 1 ⌈(c.tPollUs.num / c.tPollUs.den : ℚ) / 10 ^ 6 * c.fSysHz⌉ ∧
    (c.tHigh : ℤ) = max 1 ⌈(c.tHighUs.num / c.tHighUs.den : ℚ) / 10 ^ 6 * c.fSysHz⌉ ∧
    (c.tLow : ℤ) = max 1 ⌈(c.tLowUs.num / c.tLowUs.den : ℚ) / 10 ^ 6 * c.fSysHz⌉ ∧
    (c.tSettle : ℤ) = max 1 ⌈(c.tSettleMs.num / c.tSettleMs.den : ℚ) / 10 ^ 3 * c.fSysHz⌉ ∧
    (c.tRest : ℤ) = max 1 ⌈(c.tRestMs.num / c.tRestMs.den : ℚ) / 10 ^ 3 * c.fSysHz⌉

/-- R8 over the rationals: a configuration in R6's domains is refused exactly when it breaks one of the six constraints.
One outside the domains is refused too (the model's reading of R6 and U14, log 4). -/
def Obligations.BadConfigurationsAreRefused : Prop :=
  ∀ s : State,
    (s.cfg.inDomain = false → step s = .refused .badConfig) ∧
    (s.cfg.inDomain = true →
      (step s = .refused .badConfig ↔
        ¬((1 ≤ s.cfg.nTare ∧ s.cfg.nTare ≤ 65535) ∧
          (50 : ℚ) ≤ s.cfg.tSettleMs.num / s.cfg.tSettleMs.den ∧
          (s.cfg.tPoll ≤ 2 ^ 32 ∧ s.cfg.tHigh ≤ 2 ^ 32 ∧ s.cfg.tLow ≤ 2 ^ 32 ∧ s.cfg.tSettle ≤ 2 ^ 32 ∧
            s.cfg.tRest ≤ 2 ^ 32) ∧
          s.cfg.syncStages + 1 ≤ s.cfg.tHigh ∧
          (∀ d, s.cfg.tDvUs = some d →
            (d.num / d.den : ℚ) / 10 ^ 6 ≤ ((s.cfg.tHigh : ℚ) - s.cfg.syncStages) / s.cfg.fSysHz) ∧
          (∀ d, s.cfg.tPdUs = some d → (s.cfg.tHigh : ℚ) / s.cfg.fSysHz < (d.num / d.den : ℚ) / 10 ^ 6))))

/-- The worked example of R245 and configuration 4M of 95_test_vectors.md. -/
def Obligations.Timing4MTickCounts : Prop :=
  Config.timing4M.valid = true ∧ Config.timing4M.tPoll = 4 ∧ Config.timing4M.tHigh = 4 ∧ Config.timing4M.tLow = 4 ∧
  Config.timing4M.tSettle = 400000 ∧ Config.timing4M.tRest = 40000 ∧ Config.timing4M.frameTicks 0 = 201 ∧
  Config.timing4M.frameTicks 2 = 211 ∧ Config.timing4M.timeoutTicks 3 = 11 ∧
  Config.timing4M.tareTicks (List.replicate 10 (0, 0x000100#24)) = 362010

/-- R6: "It is not state: no command changes it." (How the configuration reaches the step is log 1.) -/
def Obligations.StepsKeepTheConfiguration : Prop :=
  ∀ s t : State, step s = .next t → t.cfg = s.cfg

/-! ### Reset, ports, status (10_state.md, 70_reset_and_hazards.md) -/

/-- R230, and R208 with it: at an edge with `rst = 1` every register takes its reset value whatever the block was doing
and whatever is offered; only the environment moves on. -/
def Obligations.ResetEdgeSetsEveryRegister : Prop :=
  ∀ s : State, s.cfg.valid = true → (s.portAt 0).rst = true → ∃ t, step s = .next t ∧
    t.fsm = .idle ∧ t.op = .none ∧ t.timer = 0#32 ∧ t.bitCnt = 0#5 ∧ t.acc = 0#24 ∧ t.pollCnt = 0#32 ∧ t.tCount = 0#16 ∧
    t.tSum = 0#64 ∧ t.tareOffset = 0#64 ∧ t.result = 0#64 ∧ t.raw = 0#24 ∧ t.initDone = false ∧ t.done = false ∧
    t.err = 0#3 ∧ t.clockPin = false ∧ t.sync = List.replicate s.cfg.syncStages true ∧ t.busy = false ∧
    t.cmdReady = true ∧ t.cfg = s.cfg ∧ t.edges = s.edges.tail ∧ t.edgeNo = s.edgeNo + 1

/-- The reset column of R20, as `State.resetWith` has it under every configuration, and the ports after reset (Z-1 of
95_test_vectors.md). The first clause, that `State.reset` is the one under timing configuration 4M, is the model's choice
and no rule of the spec (DESIGN CHOICE, log 2: R6 leaves `F_SYS_HZ` OPEN). -/
def Obligations.ResetStateFollowsTheTable : Prop :=
  State.reset = State.resetWith Config.timing4M ∧
  ∀ c : Config, (State.resetWith c).fsm = .idle ∧ (State.resetWith c).op = .none ∧ (State.resetWith c).timer = 0#32 ∧
    (State.resetWith c).bitCnt = 0#5 ∧ (State.resetWith c).acc = 0#24 ∧ (State.resetWith c).pollCnt = 0#32 ∧
    (State.resetWith c).tCount = 0#16 ∧ (State.resetWith c).tSum = 0#64 ∧ (State.resetWith c).initDone = false ∧
    (State.resetWith c).done = false ∧ (State.resetWith c).err = 0#3 ∧
    (State.resetWith c).sync = List.replicate c.syncStages true ∧
    (State.resetWith c).ports = ⟨true, 0#32, 0#64, 0#24, 0#64, false⟩

/-- R23 and R24: the fields of the status word, bit by bit, and `cmd_ready = ¬BUSY`. -/
def Obligations.StatusWordFields : Prop :=
  ∀ s : State, s.status.getLsbD 0 = decide (s.fsm ≠ .idle) ∧ s.status.getLsbD 1 = s.initDone ∧
    s.status.getLsbD 2 = s.done ∧ s.status.extractLsb' 3 3 = s.err ∧ (∀ i, 6 ≤ i → s.status.getLsbD i = false) ∧
    s.cmdReady = !(decide (s.fsm ≠ .idle))

/-! ### The invariant -/

/-- The invariant holds after reset, under every configuration the model gives a meaning; the one `State.reset` carries is
the model's choice (DESIGN CHOICE, log 2). -/
def Obligations.ResetMeetsTheInvariant : Prop :=
  State.reset.Inv ∧ ∀ c : Config, c.valid = true → (State.resetWith c).Inv

/-- Every step keeps the invariant, whatever the caller and the converter do. -/
def Obligations.StepKeepsTheInvariant : Prop :=
  ∀ s t : State, s.Inv → step s = .next t → t.Inv

/-- From a state that meets the invariant the block never stops: "exactly one row applies at every edge" (R112). -/
def Obligations.InvariantStatesAlwaysStep : Prop :=
  ∀ s : State, s.Inv → ∃ t, step s = .next t

/-- R39: CLOCK_PIN is high exactly in HIGH and CSEL_HIGH, after reset and from then on. -/
def Obligations.ClockPinHighExactlyInHighPhases : Prop :=
  (∀ c : Config, ((State.resetWith c).clockPin = true ↔
    (State.resetWith c).fsm = .high ∨ (State.resetWith c).fsm = .cselHigh)) ∧
  ∀ s t : State, (s.clockPin = true ↔ s.fsm = .high ∨ s.fsm = .cselHigh) → step s = .next t →
    (t.clockPin = true ↔ t.fsm = .high ∨ t.fsm = .cselHigh)

/-! ### Acceptance (40_acquisition.md R100) -/

/-- A step from IDLE with a decodable word offered is `exec` of the command, on the state whose synchroniser and
environment the edge has moved on; and that is all the edge adds. -/
def Obligations.StepRunsTheDecodedCommand : Prop :=
  ∀ (s : State) (i : Instr), s.cfg.valid = true → (s.portAt 0).rst = false → (s.portAt 0).cmdValid = true →
    s.fsm = .idle → decodeCmd (s.portAt 0).cmd = .cmd i →
    step s = exec i s.clocked ∧
    s.clocked = { s with
      sync := ((s.portAt 0).dataPin :: s.sync).take s.sync.length, edges := s.edges.tail, edgeNo := s.edgeNo + 1 }

/-- R100 whole: a command is accepted exactly at an edge with `rst = 0`, `cmd_valid = 1` and IDLE, with the effect of the
rule's pseudocode; while busy the offer is ignored, so the step is the same whatever is offered. -/
def Obligations.AcceptanceFollowsItsRule : Prop :=
  (∀ s : State, s.cfg.valid = true → (s.portAt 0).rst = false → s.fsm = .idle →
    ((s.portAt 0).cmdValid = false → step s = .next s.clocked) ∧
    ((s.portAt 0).cmdValid = true →
      ((decodeCmd (s.portAt 0).cmd).toOption = none →
        step s = .next { s.clocked with done := false, err := 1#3 }) ∧
      (decodeCmd (s.portAt 0).cmd = .cmd .init →
        step s = .next { s.clocked with
          done := false, err := 0#3, op := .init, initDone := false, fsm := .settle,
          timer := BitVec.ofNat 32 (s.cfg.tSettle - 1) }) ∧
      (∀ m, decodeCmd (s.portAt 0).cmd = .cmd (.decode m) →
        step s = .next { s.clocked with done := true, err := 0#3, result := bits64 (decode24 m) }) ∧
      (∀ i ∈ [Instr.tare, Instr.readRaw, Instr.getWeight], decodeCmd (s.portAt 0).cmd = .cmd i → s.initDone = false →
        step s = .next { s.clocked with done := false, err := 2#3 }) ∧
      (decodeCmd (s.portAt 0).cmd = .cmd .readRaw → s.initDone = true →
        step s = .next { s.clocked with done := false, err := 0#3, op := .readRaw, pollCnt := 0#32, fsm := .wait }) ∧
      (decodeCmd (s.portAt 0).cmd = .cmd .getWeight → s.initDone = true →
        step s = .next { s.clocked with done := false, err := 0#3, op := .getWeight, pollCnt := 0#32, fsm := .wait }) ∧
      (decodeCmd (s.portAt 0).cmd = .cmd .tare → s.initDone = true →
        step s = .next { s.clocked with
          done := false, err := 0#3, op := .tare, pollCnt := 0#32, fsm := .wait, tCount := 0#16, tSum := 0#64 }))) ∧
  ∀ (s : State) (valid : Bool) (w : Word), s.fsm ≠ .idle →
    step { s with edges := { s.portAt 0 with cmdValid := valid, cmd := w } :: s.edges.tail } = step s

/-- R203: TARE, READ_RAW and GET_WEIGHT before an INIT has completed raise NOT_INIT and change nothing else. -/
def Obligations.UnsettledReadsRaiseNotInit : Prop :=
  ∀ (s : State) (i : Instr), i ∈ [Instr.tare, Instr.readRaw, Instr.getWeight] → s.fsm = .idle → s.initDone = false →
    exec i s = .next { s with done := false, err := 2#3 }

/-! ### INIT and DECODE -/

/-- R101: INIT is accepted in every state; it is busy with `clock_pin` unmoved for exactly `T_SETTLE` ticks, then sets
INIT_DONE and DONE; nothing but TIMER and OP differs otherwise, TARE_OFFSET, RESULT and RAW among what is kept. -/
def Obligations.InitSettlesForItsTicks : Prop :=
  ∀ s : State, s.cfg.valid = true → s.fsm = .idle → ∃ t0, exec .init s = .next t0 ∧
    t0 = { s with done := false, err := 0#3, op := .init, initDone := false, fsm := .settle,
                  timer := BitVec.ofNat 32 (s.cfg.tSettle - 1) } ∧
    (s.noReset s.cfg.tSettle →
      (∀ j < s.cfg.tSettle, ∃ u, runFor j t0 = .next u ∧ u.busy = true ∧ u.initDone = false ∧ u.clockPin = s.clockPin ∧
        u.result = s.result ∧ u.raw = s.raw ∧ u.tareOffset = s.tareOffset) ∧
      ∃ t, runFor s.cfg.tSettle t0 = .next t ∧ t.status = 0x00000006#32 ∧
        t = { s.clockedBy s.cfg.tSettle with
              done := true, err := 0#3, op := .init, initDone := true, fsm := .idle, timer := 0#32 })

/-- R143: DECODE completes at its acceptance edge in every state, settled or not: RESULT is the operand sign-extended
from bit 23, DONE is set, ERR cleared, all else unchanged. -/
def Obligations.DecodeCommandSignExtends : Prop :=
  (∀ (s : State) (m : Raw), s.fsm = .idle →
    exec (.decode m) s = .next { s with done := true, err := 0#3, result := m.signExtend 64 }) ∧
  (0x000000#24).signExtend 64 = 0x0000000000000000#64 ∧ (0x7FFFFF#24).signExtend 64 = 0x00000000007FFFFF#64 ∧
  (0x800000#24).signExtend 64 = 0xFFFFFFFFFF800000#64 ∧ (0xFFFFFF#24).signExtend 64 = 0xFFFFFFFFFFFFFFFF#64

/-- R141: the equivalent forms of `decode24`, its range, and that it is a bijection onto that range whose sign is bit 23. -/
def Obligations.SignDecoderForms : Prop :=
  (∀ m : Raw, decode24 m = (m.toNat : ℤ) - 2 ^ 24 * (m.getLsbD 23).toNat ∧
    -2 ^ 23 ≤ decode24 m ∧ decode24 m ≤ 2 ^ 23 - 1 ∧ bits64 (decode24 m) = m.signExtend 64 ∧
    (decode24 m < 0 ↔ m.getLsbD 23 = true)) ∧
  (∀ m n : Raw, decode24 m = decode24 n → m = n) ∧
  ∀ z : ℤ, -2 ^ 23 ≤ z → z ≤ 2 ^ 23 - 1 → ∃ m : Raw, decode24 m = z

/-! ### The frame -/

/-- R112, every row of the transition table: `u` is the state whose synchroniser the edge has shifted, `d` is
`data_sync` before the edge. -/
def Obligations.TransitionTableRows : Prop :=
  ∀ s : State, s.cfg.valid = true → (s.portAt 0).rst = false →
    let u := s.clocked
    let d := s.dataSync (s.portAt 0).dataPin
    (s.fsm = .idle → (s.portAt 0).cmdValid = false → step s = .next u) ∧
    (s.fsm = .idle → (s.portAt 0).cmdValid = true → step s = accept (s.portAt 0).cmd u) ∧
    (s.fsm ≠ .idle → s.fsm ≠ .wait → s.timer ≠ 0#32 → step s = .next { u with timer := s.timer - 1#32 }) ∧
    (s.fsm = .settle → s.timer = 0#32 → step s = .next { u with initDone := true, done := true, fsm := .idle }) ∧
    (s.fsm = .wait → d = false →
      step s = .next { u with acc := 0#24, bitCnt := 0#5, clockPin := true, fsm := .high,
                              timer := BitVec.ofNat 32 (s.cfg.tHigh - 1) }) ∧
    (s.fsm = .wait → d = true → s.cfg.readyTimeoutPolls = none →
      step s = .next { u with fsm := .pollHold, timer := BitVec.ofNat 32 (s.cfg.tPoll - 1) }) ∧
    (∀ k, s.fsm = .wait → d = true → s.cfg.readyTimeoutPolls = some k → s.pollCnt.toNat + 1 < k →
      step s = .next { u with pollCnt := s.pollCnt + 1#32, fsm := .pollHold,
                              timer := BitVec.ofNat 32 (s.cfg.tPoll - 1) }) ∧
    (∀ k, s.fsm = .wait → d = true → s.cfg.readyTimeoutPolls = some k → s.pollCnt.toNat + 1 = k →
      step s = .next { u with err := 3#3, fsm := .idle }) ∧
    (s.fsm = .pollHold → s.timer = 0#32 → step s = .next { u with fsm := .wait }) ∧
    (s.fsm = .high → s.timer = 0#32 →
      step s = .next { u with acc := s.acc.extractLsb' 0 23 ++ BitVec.ofBool d, bitCnt := s.bitCnt + 1#5,
                              clockPin := false, fsm := .low, timer := BitVec.ofNat 32 (s.cfg.tLow - 1) }) ∧
    (s.fsm = .low → s.timer = 0#32 → s.bitCnt.toNat < 24 →
      step s = .next { u with clockPin := true, fsm := .high, timer := BitVec.ofNat 32 (s.cfg.tHigh - 1) }) ∧
    (s.fsm = .low → s.timer = 0#32 → s.bitCnt.toNat = 24 →
      step s = .next { u with clockPin := true, fsm := .cselHigh, timer := BitVec.ofNat 32 (s.cfg.tHigh - 1) }) ∧
    (s.fsm = .cselHigh → s.timer = 0#32 →
      step s = .next { u with clockPin := false, fsm := .cselLow, timer := BitVec.ofNat 32 (s.cfg.tLow - 1) }) ∧
    (s.fsm = .cselLow → s.timer = 0#32 → s.op = .readRaw →
      step s = .next { u with raw := s.acc, result := bits64 (decode24 s.acc), done := true, fsm := .idle }) ∧
    (s.fsm = .cselLow → s.timer = 0#32 → s.op = .getWeight →
      step s = .next { u with raw := s.acc, result := mask16 (decode24 s.acc - signed64 s.tareOffset),
                              done := true, fsm := .idle }) ∧
    (s.fsm = .cselLow → s.timer = 0#32 → s.op = .tare → s.tCount.toNat + 1 < s.cfg.nTare →
      step s = .next { u with tSum := bits64 (signed64 s.tSum + decode24 s.acc), tCount := s.tCount + 1#16,
                              fsm := .rest, timer := BitVec.ofNat 32 (s.cfg.tRest - 1) }) ∧
    (s.fsm = .cselLow → s.timer = 0#32 → s.op = .tare → s.cfg.nTare ≤ s.tCount.toNat + 1 →
      step s = .next { u with tSum := bits64 (signed64 s.tSum + decode24 s.acc), tCount := s.tCount + 1#16,
                              tareOffset := bits64 ((signed64 s.tSum + decode24 s.acc).tdiv s.cfg.nTare),
                              raw := s.acc, done := true, fsm := .idle }) ∧
    (s.fsm = .rest → s.timer = 0#32 → step s = .next { u with pollCnt := 0#32, fsm := .wait })

/-- R115: SYNC shifts `data_pin` in at every edge; `data_sync` is its last flip-flop, or the pin itself with none; so a
read at an edge sees the pin as it was `SYNC_STAGES` edges earlier; reset sets it to all ones. -/
def Obligations.SynchroniserDelaysThePin : Prop :=
  (∀ s t : State, (s.portAt 0).rst = false → step s = .next t →
    t.sync = ((s.portAt 0).dataPin :: s.sync).take s.sync.length) ∧
  (∀ s t : State, (s.portAt 0).rst = true → step s = .next t → t.sync = List.replicate s.cfg.syncStages true) ∧
  (∀ (s : State) (b : Bool), (s.sync = [] → s.dataSync b = b) ∧
    (∀ h : 0 < s.sync.length, s.dataSync b = s.sync[s.sync.length - 1])) ∧
  ∀ (s t : State) (n : Nat), s.sync.length = s.cfg.syncStages → s.cfg.syncStages ≤ n → s.noReset n →
    runFor n s = .next t →
    t.dataSync (t.portAt 0).dataPin = (s.portAt (n - s.cfg.syncStages)).dataPin

/-- R109, with the ticks of R113: a frame that becomes ready makes exactly the listed pin events, 25 rising and 25 falling
edges and 24 samples, and leaves the clock low; one that times out makes its high polls and no clock edge. -/
def Obligations.FrameMakesExactlyItsPinEvents : Prop :=
  (∀ (s : State) (o k : Nat) (v : Raw), s.cfg.valid = true → s.fsm = .wait → s.pollCnt = 0#32 → s.clockPin = false →
    s.op.runsFrames = true → s.convFrame 0 k v → s.cfg.pollsAllowed k → s.noReset (s.cfg.frameTicks k) →
    pinTrace o (s.cfg.frameTicks k) s = frameEvents s.cfg o k v ∧
    ∃ t, runFor (s.cfg.frameTicks k) s = .next t ∧ t.clockPin = false) ∧
  (∀ (c : Config) (o k : Nat) (v : Raw),
    ((frameEvents c o k v).filter fun e => e.2 = .rise).length = 25 ∧
    ((frameEvents c o k v).filter fun e => e.2 = .fall).length = 25 ∧
    ((frameEvents c o k v).filter fun e => e.2 = .sample true ∨ e.2 = .sample false).length = 24) ∧
  ∀ (s : State) (o bound : Nat), s.cfg.valid = true → s.fsm = .wait → s.pollCnt = 0#32 → s.clockPin = false →
    s.convTimeout 0 bound → s.noReset (s.cfg.timeoutTicks bound) →
    pinTrace o (s.cfg.timeoutTicks bound) s =
      (List.range bound).map fun j => (o + s.cfg.pollTicks j, PinEvent.poll true)

/-- R110: whatever the converter answers, ACC at a frame's completion is the number its 24 samples write, first sample
highest; READ_RAW and GET_WEIGHT show it in RAW. -/
def Obligations.RawSampleIsMsbFirst : Prop :=
  ∀ (s : State) (k : Nat), s.cfg.valid = true → s.fsm = .wait → s.pollCnt = 0#32 → s.op.runsFrames = true →
    s.cfg.pollsAllowed k → (∀ j < k, s.seen (s.cfg.pollTicks j) = true) → s.seen (s.cfg.pollTicks k) = false →
    s.noReset (s.cfg.frameTicks k) →
    ∃ t, runFor (s.cfg.frameTicks k) s = .next t ∧
      t.acc.toNat = ∑ i ∈ Finset.range 24,
        (s.seen (s.cfg.pollTicks k + s.cfg.tHigh + i * s.cfg.pulseTicks)).toNat * 2 ^ (23 - i) ∧
      (s.op ≠ .tare → t.raw = t.acc)

/-- R239, data samples: the bit shifted in at the end of a high hold is the pin's level after that pulse's rising edge. -/
def Obligations.SampleShowsTheLevelAfterItsRisingEdge : Prop :=
  ∀ s : State, s.cfg.valid = true → s.sync.length = s.cfg.syncStages → s.fsm = .high →
    s.timer = BitVec.ofNat 32 (s.cfg.tHigh - 1) → s.noReset s.cfg.tHigh →
    s.cfg.syncStages ≤ s.cfg.tHigh - 1 ∧
    ∃ t, runFor s.cfg.tHigh s = .next t ∧
      t.acc = shiftIn s.acc (s.portAt (s.cfg.tHigh - 1 - s.cfg.syncStages)).dataPin

/-- R234: a clock-high interval lasts exactly `T_HIGH` ticks, below `T_PD_US` where that is given. -/
def Obligations.ClockHighLastsExactlyTHigh : Prop :=
  ∀ s : State, s.cfg.valid = true → s.fsm = .high ∨ s.fsm = .cselHigh → s.clockPin = true →
    s.timer = BitVec.ofNat 32 (s.cfg.tHigh - 1) → s.noReset s.cfg.tHigh →
    (∀ j < s.cfg.tHigh, ∃ u, runFor j s = .next u ∧ u.clockPin = true) ∧
    (∃ t, runFor s.cfg.tHigh s = .next t ∧ t.clockPin = false) ∧
    ∀ d, s.cfg.tPdUs = some d → (s.cfg.tHigh : ℚ) / s.cfg.fSysHz < (d.num / d.den : ℚ) / 10 ^ 6

/-- R104: with a timeout of `bound` polls, a frame whose polls all read high raises TIMEOUT at the edge of poll `bound`,
still busy before it, with no clock edge and no result written. -/
def Obligations.ReadyWaitTimesOut : Prop :=
  ∀ (s : State) (bound : Nat), s.cfg.valid = true → s.fsm = .wait → s.pollCnt = 0#32 → s.done = false →
    s.convTimeout 0 bound → s.noReset (s.cfg.timeoutTicks bound) →
    (∀ j < s.cfg.timeoutTicks bound, ∃ u, runFor j s = .next u ∧ u.busy = true ∧ u.clockPin = s.clockPin) ∧
    ∃ t, runFor (s.cfg.timeoutTicks bound) s = .next t ∧ t.fsm = .idle ∧ t.err = 3#3 ∧ t.done = false ∧
      t.result = s.result ∧ t.raw = s.raw ∧ t.tareOffset = s.tareOffset ∧ t.initDone = s.initDone ∧
      t.clockPin = s.clockPin ∧ t.acc = s.acc ∧ t.bitCnt = s.bitCnt ∧ t.tCount = s.tCount ∧ t.tSum = s.tSum ∧ t.op = s.op

/-- R116: without a timeout, as long as every poll reads high the block stays busy, for any number of ticks, with
`clock_pin` unmoved and no result written: the run of a converter that is never ready is kept. -/
def Obligations.NeverReadyBlocksForEver : Prop :=
  ∀ (s : State) (n : Nat), s.cfg.valid = true → s.fsm = .wait → s.cfg.readyTimeoutPolls = none →
    (∀ j, s.cfg.pollTicks j < n → s.seen (s.cfg.pollTicks j) = true) → s.noReset n →
    ∃ u, runFor n s = .next u ∧ u.busy = true ∧ u.clockPin = s.clockPin ∧ u.result = s.result ∧ u.raw = s.raw ∧
      u.tareOffset = s.tareOffset

/-- R214, CONV_READY_EVENTUALLY (poll `k` of the frame reads 0, whichever poll that is and whatever else the converter
answers): it is all that READ_RAW and GET_WEIGHT need to end, within the ticks of R245, when there is no timeout. -/
def Obligations.ReadyConverterEndsTheRead : Prop :=
  ∀ (s : State) (i : Instr) (k : Nat), i = .readRaw ∨ i = .getWeight → s.cfg.valid = true → s.fsm = .idle →
    s.initDone = true → s.cfg.readyTimeoutPolls = none → s.seen (s.cfg.pollTicks k) = false →
    s.noReset (s.cfg.frameTicks k) →
    ∃ t0 n t, exec i s = .next t0 ∧ n ≤ s.cfg.frameTicks k ∧ runFor n t0 = .next t ∧ t.fsm = .idle ∧ t.done = true ∧
      t.err = 0#3

/-- R54: only reset ends a frame partway. -/
def Obligations.OnlyResetCutsAFrameShort : Prop :=
  ∀ s t : State, step s = .next t → s.fsm.midFrame = true → t.fsm.midFrame = false →
    s.breaksFrame = true ∧ t.clockPin = false ∨
      (s.portAt 0).rst = false ∧ s.fsm = .cselLow ∧ s.timer = 0#32 ∧ (t.fsm = .idle ∧ t.done = true ∨ t.fsm = .rest)

/-! ### READ_RAW, GET_WEIGHT, TARE -/

/-- R111: READ_RAW, accepted once settled, ends after its frame with the sample in RAW and its decoding in RESULT; a
timeout leaves both; unsettled it raises NOT_INIT. -/
def Obligations.ReadRawReadsOneFrame : Prop :=
  ∀ s : State, s.cfg.valid = true → s.fsm = .idle →
    (s.initDone = false → exec .readRaw s = .next { s with done := false, err := 2#3 }) ∧
    (s.initDone = true → ∃ t0, exec .readRaw s = .next t0 ∧
      t0 = { s with done := false, err := 0#3, op := .readRaw, pollCnt := 0#32, fsm := .wait } ∧
      (∀ (k : Nat) (v : Raw), s.convFrame 0 k v → s.cfg.pollsAllowed k → s.noReset (s.cfg.frameTicks k) →
        ∃ t, runFor (s.cfg.frameTicks k) t0 = .next t ∧ t.fsm = .idle ∧ t.done = true ∧ t.err = 0#3 ∧ t.raw = v ∧
          t.result = v.signExtend 64 ∧ t.status = 0x00000006#32 ∧ t.tareOffset = s.tareOffset ∧ t.initDone = true ∧
          t.clockPin = false ∧ t.tCount = s.tCount ∧ t.tSum = s.tSum) ∧
      ∀ bound, s.convTimeout 0 bound → s.noReset (s.cfg.timeoutTicks bound) →
        ∃ t, runFor (s.cfg.timeoutTicks bound) t0 = .next t ∧ t.fsm = .idle ∧ t.done = false ∧ t.err = 3#3 ∧
          t.raw = s.raw ∧ t.result = s.result ∧ t.tareOffset = s.tareOffset ∧ t.initDone = true ∧
          t.clockPin = s.clockPin ∧ t.tCount = s.tCount ∧ t.tSum = s.tSum)

/-- R165 with R167: GET_WEIGHT ends after its frame with the sample in RAW and, in RESULT, the non-negative remainder of
`decode24(RAW) − TARE_OFFSET` modulo 2^16; a timeout leaves both; unsettled it raises NOT_INIT. -/
def Obligations.GetWeightMasksTheDifference : Prop :=
  ∀ s : State, s.cfg.valid = true → s.fsm = .idle →
    (s.initDone = false → exec .getWeight s = .next { s with done := false, err := 2#3 }) ∧
    (s.initDone = true → ∃ t0, exec .getWeight s = .next t0 ∧
      t0 = { s with done := false, err := 0#3, op := .getWeight, pollCnt := 0#32, fsm := .wait } ∧
      (∀ (k : Nat) (v : Raw), s.convFrame 0 k v → s.cfg.pollsAllowed k → s.noReset (s.cfg.frameTicks k) →
        ∃ t, runFor (s.cfg.frameTicks k) t0 = .next t ∧ t.fsm = .idle ∧ t.done = true ∧ t.err = 0#3 ∧ t.raw = v ∧
          t.result.toInt = (decode24 v - signed64 s.tareOffset) % 2 ^ 16 ∧ t.status = 0x00000006#32 ∧
          t.unmaskedWeight = decode24 v - signed64 s.tareOffset ∧ t.tareOffset = s.tareOffset ∧ t.initDone = true ∧
          t.clockPin = false ∧ t.tCount = s.tCount ∧ t.tSum = s.tSum) ∧
      ∀ bound, s.convTimeout 0 bound → s.noReset (s.cfg.timeoutTicks bound) →
        ∃ t, runFor (s.cfg.timeoutTicks bound) t0 = .next t ∧ t.fsm = .idle ∧ t.done = false ∧ t.err = 3#3 ∧
          t.raw = s.raw ∧ t.result = s.result ∧ t.tareOffset = s.tareOffset ∧ t.initDone = true ∧
          t.clockPin = s.clockPin ∧ t.tCount = s.tCount ∧ t.tSum = s.tSum)

/-- R160, R161, R162: TARE, accepted once settled, runs its `N_TARE` frames with a rest between two and ends, at the tick
of R245, with the mean of their readings truncated toward zero in TARE_OFFSET, whatever that held, the last sample in
RAW, and RESULT as it was; unsettled it raises NOT_INIT. -/
def Obligations.TareStoresTheTruncatedMean : Prop :=
  ∀ s : State, s.cfg.valid = true → s.fsm = .idle →
    (s.initDone = false → exec .tare s = .next { s with done := false, err := 2#3 }) ∧
    (s.initDone = true → ∃ t0, exec .tare s = .next t0 ∧
      t0 = { s with done := false, err := 0#3, op := .tare, pollCnt := 0#32, fsm := .wait, tCount := 0#16, tSum := 0#64 } ∧
      ∀ fs : List (Nat × Raw), fs.length = s.cfg.nTare → s.convTare 0 fs → s.noReset (s.cfg.tareTicks fs) →
        ∃ t, runFor (s.cfg.tareTicks fs) t0 = .next t ∧ t.fsm = .idle ∧ t.done = true ∧ t.err = 0#3 ∧
          t.status = 0x00000006#32 ∧ signed64 t.tareOffset = (readingSum fs).tdiv s.cfg.nTare ∧
          fs.getLast?.map Prod.snd = some t.raw ∧ t.result = s.result ∧ t.initDone = true ∧ t.clockPin = false ∧
          t.tCount.toNat = s.cfg.nTare ∧ signed64 t.tSum = readingSum fs)

/-- R164: a TARE whose frame after the completed frames `fs` times out ends there; the readings are discarded. -/
def Obligations.TareTimeoutStoresNothing : Prop :=
  ∀ (s : State) (fs : List (Nat × Raw)) (bound : Nat), s.cfg.valid = true → s.fsm = .idle → s.initDone = true →
    fs.length < s.cfg.nTare → s.convTare 0 fs → s.convTimeout (s.cfg.restartTicks fs) bound →
    s.noReset (s.cfg.restartTicks fs + s.cfg.timeoutTicks bound) →
    ∃ t0 t, exec .tare s = .next t0 ∧ runFor (s.cfg.restartTicks fs + s.cfg.timeoutTicks bound) t0 = .next t ∧
      t.fsm = .idle ∧ t.done = false ∧ t.err = 3#3 ∧ t.tareOffset = s.tareOffset ∧ t.raw = s.raw ∧ t.result = s.result ∧
      t.initDone = true

/-- R163: identical readings give that reading; the same samples give the same TARE_OFFSET whatever it held before. -/
def Obligations.TareHasNoFilterAndNoMemory : Prop :=
  (∀ (s : State) (fs : List (Nat × Raw)) (a : Raw), s.cfg.valid = true → s.fsm = .idle → s.initDone = true →
    fs.length = s.cfg.nTare → (∀ f ∈ fs, f.2 = a) → s.convTare 0 fs → s.noReset (s.cfg.tareTicks fs) →
    ∃ t0 t, exec .tare s = .next t0 ∧ runFor (s.cfg.tareTicks fs) t0 = .next t ∧ t.fsm = .idle ∧
      t.tareOffset = a.signExtend 64) ∧
  ∀ (s u : State) (fs gs : List (Nat × Raw)), s.cfg.valid = true → u.cfg.valid = true → s.fsm = .idle → u.fsm = .idle →
    s.initDone = true → u.initDone = true → s.cfg.nTare = u.cfg.nTare → fs.length = s.cfg.nTare →
    fs.map Prod.snd = gs.map Prod.snd → s.convTare 0 fs → u.convTare 0 gs → s.noReset (s.cfg.tareTicks fs) →
    u.noReset (u.cfg.tareTicks gs) →
    ∃ t0 t w0 w, exec .tare s = .next t0 ∧ runFor (s.cfg.tareTicks fs) t0 = .next t ∧
      exec .tare u = .next w0 ∧ runFor (u.cfg.tareTicks gs) w0 = .next w ∧
      t.fsm = .idle ∧ w.fsm = .idle ∧ t.tareOffset = w.tareOffset

/-- R166 and R167: the difference never leaves `[−(2^24 − 1), 2^24 − 1]`; its mask is the non-negative remainder modulo
2^16, in `[0, 65535]`, with bits 63:16 zero. -/
def Obligations.WeightMaskIsTheRemainder : Prop :=
  (∀ (a : Raw) (offset : Word64), -2 ^ 23 ≤ signed64 offset → signed64 offset ≤ 2 ^ 23 - 1 →
    -(2 ^ 24 - 1) ≤ weightDiff a offset ∧ weightDiff a offset ≤ 2 ^ 24 - 1) ∧
  ∀ d : ℤ, ((mask16 d).toNat : ℤ) = d % 2 ^ 16 ∧ (mask16 d).toNat ≤ 65535 ∧
    (∀ i, 16 ≤ i → (mask16 d).getLsbD i = false) ∧ ∀ i < 16, (mask16 d).getLsbD i = (BitVec.ofInt 64 d).getLsbD i

/-! ### Who writes what -/

/-- R26: TARE_OFFSET is written by reset, to 0, and by the last frame of a TARE, to the truncated mean; by nothing else;
and every value TARE writes lies in `[−2^23, 2^23 − 1]`. -/
def Obligations.TareOffsetWriters : Prop :=
  ∀ s t : State, step s = .next t →
    (t.tareOffset = s.tareOffset ∨ (s.portAt 0).rst = true ∧ t.tareOffset = 0#64 ∨
      (s.portAt 0).rst = false ∧ s.fsm = .cselLow ∧ s.timer = 0#32 ∧ s.op = .tare ∧ s.cfg.nTare ≤ s.tCount.toNat + 1 ∧
        t.fsm = .idle ∧ t.done = true ∧
        t.tareOffset = bits64 ((signed64 s.tSum + decode24 s.acc).tdiv s.cfg.nTare)) ∧
    (s.Inv → -2 ^ 23 ≤ signed64 t.tareOffset ∧ signed64 t.tareOffset ≤ 2 ^ 23 - 1)

/-- R27 and R28: RESULT is written by reset, by an accepted DECODE, and by the completion of READ_RAW and of GET_WEIGHT;
RAW by reset and by the completion of READ_RAW, of GET_WEIGHT and of a TARE's last frame, to ACC. -/
def Obligations.ResultAndRawWriters : Prop :=
  ∀ s t : State, step s = .next t →
    (t.result = s.result ∨ (s.portAt 0).rst = true ∧ t.result = 0#64 ∨
      (s.portAt 0).rst = false ∧
        (s.fsm = .idle ∧ (s.portAt 0).cmdValid = true ∧
            (∃ m, decodeCmd (s.portAt 0).cmd = .cmd (.decode m) ∧ t.result = m.signExtend 64) ∨
          s.fsm = .cselLow ∧ s.timer = 0#32 ∧ s.op = .readRaw ∧ t.result = s.acc.signExtend 64 ∨
          s.fsm = .cselLow ∧ s.timer = 0#32 ∧ s.op = .getWeight ∧
            t.result.toInt = (decode24 s.acc - signed64 s.tareOffset) % 2 ^ 16)) ∧
    (t.raw = s.raw ∨ (s.portAt 0).rst = true ∧ t.raw = 0#24 ∨
      (s.portAt 0).rst = false ∧ s.fsm = .cselLow ∧ s.timer = 0#32 ∧ t.fsm = .idle ∧ t.raw = s.acc ∧
        (s.op = .readRaw ∨ s.op = .getWeight ∨ s.op = .tare))

/-- R57: an edge without reset that changes RESULT, RAW or TARE_OFFSET is the edge that sets DONE and ends the command. -/
def Obligations.ResultsAppearWithDone : Prop :=
  ∀ s t : State, s.Inv → step s = .next t → (s.portAt 0).rst = false →
    t.result ≠ s.result ∨ t.raw ≠ s.raw ∨ t.tareOffset ≠ s.tareOffset →
    t.done = true ∧ t.err = 0#3 ∧ t.fsm = .idle

/-- R34: INIT_DONE is set by the end of a settle, cleared by reset and by the acceptance of an INIT, written by nothing
else. -/
def Obligations.InitDoneWriters : Prop :=
  ∀ s t : State, step s = .next t →
    t.initDone = s.initDone ∨ (s.portAt 0).rst = true ∧ t.initDone = false ∨
      (s.portAt 0).rst = false ∧
        (s.fsm = .settle ∧ s.timer = 0#32 ∧ t.initDone = true ∧ t.fsm = .idle ∨
          s.fsm = .idle ∧ (s.portAt 0).cmdValid = true ∧ decodeCmd (s.portAt 0).cmd = .cmd .init ∧ t.initDone = false)

/-- R35, R36: after any command ends, exactly one of `DONE = 1` and `ERR ≠ 0` holds; while it runs, neither. -/
def Obligations.EveryCommandEndsDoneOrInError : Prop :=
  ∀ s t : State, s.Inv → step s = .next t → (s.portAt 0).rst = false →
    s.fsm ≠ .idle ∨ (s.portAt 0).cmdValid = true →
    (t.fsm = .idle → (t.done = true ∧ t.err = 0#3) ∨ (t.done = false ∧ t.err ≠ 0#3)) ∧
    (t.fsm ≠ .idle → t.done = false ∧ t.err = 0#3)

/-- R201, R206: an edge at which a command ends in an error leaves a code of R201 and IDLE, with DONE 0, and writes no
result, no pin and no hidden register. -/
def Obligations.ErrorsArePrecise : Prop :=
  ∀ s t : State, s.Inv → step s = .next t → (s.portAt 0).rst = false →
    s.fsm ≠ .idle ∨ (s.portAt 0).cmdValid = true → t.err ≠ 0#3 →
    (t.err = 1#3 ∨ t.err = 2#3 ∨ t.err = 3#3) ∧ (t.err = 3#3 ↔ s.fsm = .wait) ∧
    t.fsm = .idle ∧ t.done = false ∧ t.result = s.result ∧ t.raw = s.raw ∧ t.tareOffset = s.tareOffset ∧
    t.initDone = s.initDone ∧ t.clockPin = s.clockPin ∧ t.clockPin = false ∧ t.acc = s.acc ∧ t.bitCnt = s.bitCnt ∧
    t.pollCnt = s.pollCnt ∧ t.tCount = s.tCount ∧ t.tSum = s.tSum ∧ t.op = s.op

/-- R217: in IDLE, with nothing offered and no reset, all state survives any number of ticks; only SYNC shifts. -/
def Obligations.IdleKeepsAllState : Prop :=
  ∀ (s : State) (n : Nat), s.cfg.valid = true → s.fsm = .idle → s.noReset n →
    (∀ j < n, (s.portAt j).cmdValid = false) → runFor n s = .next (s.clockedBy n)
end

