-- ==== Sys2Proof/Laws/Decode.lean ====
section
/-! SUPPORT. The three fields of a command word (30_encoding.md R71): a word is its fields, and its fields as numbers. -/

namespace Sys2Proof

/-- Bit `i` of `{m, r, o}` lies in the field that covers `i`. -/
theorem append_bit (m : Raw) (r : BitVec 5) (o : BitVec 3) (i : Nat) :
    (m ++ r ++ o : Word).getLsbD i =
      if i < 3 then o.getLsbD i else if i < 8 then r.getLsbD (i - 3) else m.getLsbD (i - 8) := by
  rw [BitVec.getLsbD_append, BitVec.getLsbD_append]
  split
  · rfl
  · by_cases h8 : i < 8
    · simp [h8, show i - 3 < 5 by omega]
    · simp [h8, show ¬ i - 3 < 5 by omega, Nat.sub_sub]

@[simp] theorem opcOf_append (m : Raw) (r : BitVec 5) (o : BitVec 3) : opcOf (m ++ r ++ o) = o := by
  apply BitVec.eq_of_getLsbD_eq
  intro i hi
  rw [opcOf, BitVec.getLsbD_extractLsb', append_bit]
  simp [hi]

@[simp] theorem rsvOf_append (m : Raw) (r : BitVec 5) (o : BitVec 3) : rsvOf (m ++ r ++ o) = r := by
  apply BitVec.eq_of_getLsbD_eq
  intro i hi
  rw [rsvOf, BitVec.getLsbD_extractLsb', append_bit]
  simp [hi, show 3 + i < 8 by omega]

@[simp] theorem imm24Of_append (m : Raw) (r : BitVec 5) (o : BitVec 3) : imm24Of (m ++ r ++ o) = m := by
  apply BitVec.eq_of_getLsbD_eq
  intro i hi
  rw [imm24Of, BitVec.getLsbD_extractLsb', append_bit]
  simp [hi, show ¬ 8 + i < 3 by omega]

/-- Every word is its three fields. -/
theorem word_fields (w : Word) : w = imm24Of w ++ rsvOf w ++ opcOf w := by
  apply BitVec.eq_of_getLsbD_eq
  intro i hi
  rw [append_bit]
  simp only [imm24Of, rsvOf, opcOf, BitVec.getLsbD_extractLsb']
  by_cases h1 : i < 3
  · simp [h1]
  · by_cases h2 : i < 8
    · simp [h1, h2, show i - 3 < 5 by omega, show 3 + (i - 3) = i by omega]
    · simp [h1, h2, show i - 8 < 24 by omega, show 8 + (i - 8) = i by omega]

theorem opcOf_toNat (w : Word) : (opcOf w).toNat = w.toNat % 8 := by
  simp [opcOf]

theorem rsvOf_toNat (w : Word) : (rsvOf w).toNat = w.toNat / 8 % 32 := by
  simp [rsvOf, Nat.shiftRight_eq_div_pow]

theorem imm24Of_toNat (w : Word) : (imm24Of w).toNat = w.toNat / 256 := by
  have := w.isLt
  simp [imm24Of, Nat.shiftRight_eq_div_pow]
  omega

/-- The word of a command as a number: the operand from bit 8 up, the code below bit 3 (R71). -/
theorem encode_toNat (i : Instr) : (encode i).toNat = 256 * i.imm24.toNat + i.opc.toNat := by
  have h1 := opcOf_toNat (encode i)
  have h2 := rsvOf_toNat (encode i)
  have h3 := imm24Of_toNat (encode i)
  rw [encode, opcOf_append] at h1
  rw [encode, rsvOf_append] at h2
  rw [encode, imm24Of_append] at h3
  rw [encode]
  simp at h2
  omega

end Sys2Proof
end

