-- ==== Sys2Proof/Laws/Operands.lean ====
section
/-! SUPPORT. What the block's arithmetic computes, in integers and bits. -/

namespace Sys2Proof

/-- The shift doubles the accumulator and adds the bit, when its top bit is clear (R106). -/
theorem shiftIn_toNat (acc : Raw) (b : Bool) (h : acc.toNat < 2 ^ 23) :
    (shiftIn acc b).toNat = 2 * acc.toNat + b.toNat := by
  have hb : b.toNat < 2 := by cases b <;> decide
  simp only [shiftIn, BitVec.toNat_append, BitVec.extractLsb'_toNat, BitVec.toNat_ofBool]
  rw [← Nat.shiftLeft_add_eq_or_of_lt (by simpa using hb)]
  simp only [Nat.shiftRight_zero, Nat.shiftLeft_eq]
  omega

/-- Bit `j + 1` after the shift is bit `j` before it. -/
theorem shiftIn_getLsbD_succ (acc : Raw) (b : Bool) (j : Nat) (h : j < 23) :
    (shiftIn acc b).getLsbD (j + 1) = acc.getLsbD j := by
  change (acc.extractLsb' 0 23 ++ BitVec.ofBool b : BitVec (23 + 1)).getLsbD (j + 1) = _
  rw [BitVec.getLsbD_append]
  simp [h]

/-- Bit 0 after the shift is the sampled bit. -/
theorem shiftIn_getLsbD_zero (acc : Raw) (b : Bool) : (shiftIn acc b).getLsbD 0 = b := by
  change (acc.extractLsb' 0 23 ++ BitVec.ofBool b : BitVec (23 + 1)).getLsbD 0 = b
  rw [BitVec.getLsbD_append]
  simp

/-- The sign decoder reads a sample as a 24-bit two's-complement number. -/
theorem decode24_eq_toInt (m : Raw) : decode24 m = m.toInt := by
  have hm : m.toNat < 2 ^ 24 := m.isLt
  have hbit : m[23] = decide (2 ^ 23 ≤ m.toNat) := by
    have := BitVec.msb_eq_decide m
    simpa [BitVec.msb_eq_getLsbD_last, BitVec.getLsbD_eq_getElem] using this
  have hand : (((~~~m) &&& 0xFFFFFF#24).toNat : Int) = 2 ^ 24 - 1 - m.toNat := by
    rw [show (0xFFFFFF#24 : Raw) = BitVec.allOnes 24 from by decide, BitVec.and_allOnes, BitVec.toNat_not]
    omega
  unfold decode24
  rw [hbit, hand, BitVec.toInt_eq_toNat_cond]
  split <;> rename_i h <;> simp at h <;> split <;> omega

/-- A decoded sample is a 24-bit signed number (R141). -/
theorem decode24_range (m : Raw) : -2 ^ 23 ≤ decode24 m ∧ decode24 m ≤ 2 ^ 23 - 1 := by
  rw [decode24_eq_toInt]
  have h1 := BitVec.le_toInt m
  have h2 := BitVec.toInt_lt (x := m)
  simp at h1 h2
  omega

/-- `signed64` undoes `bits64` in range. -/
theorem signed64_bits64 (z : Int) (h1 : -2 ^ 63 ≤ z) (h2 : z < 2 ^ 63) : signed64 (bits64 z) = z := by
  unfold signed64 bits64
  rw [BitVec.toInt_ofInt, Int.bmod_eq_of_le] <;> omega

/-- The truncating quotient is Lean's `Int.tdiv`. -/
theorem quot_eq_tdiv (a : Int) (b : Nat) : quot a b = a.tdiv b := by
  unfold quot
  rcases le_total 0 a with h | h
  · obtain ⟨n, rfl⟩ := Int.eq_ofNat_of_zero_le h
    rcases Nat.eq_zero_or_pos n with rfl | hn
    · simp
    · rw [Int.sign_eq_one_of_pos (by omega)]
      simp [Int.natAbs_natCast]
  · obtain ⟨n, hn⟩ := Int.eq_ofNat_of_zero_le (a := -a) (by omega)
    obtain rfl : a = -(n : Int) := by omega
    rcases Nat.eq_zero_or_pos n with rfl | hn
    · simp
    · rw [Int.sign_eq_neg_one_of_neg (by omega), Int.neg_tdiv]
      simp

/-- Truncation does not leave a range about zero (R162). -/
theorem quot_range (s : Int) (n : Nat) (hn : 0 < n) (h1 : -2 ^ 23 * (n : Int) ≤ s) (h2 : s ≤ (2 ^ 23 - 1) * (n : Int)) :
    -2 ^ 23 ≤ quot s n ∧ quot s n ≤ 2 ^ 23 - 1 := by
  rw [quot_eq_tdiv]
  have hn' : (0 : Int) < n := by omega
  constructor
  · rcases le_total 0 s with h | h
    · have := Int.tdiv_nonneg h hn'.le
      omega
    · have h3 : (-s).tdiv n ≤ 2 ^ 23 := by
        rw [Int.tdiv_eq_ediv_of_nonneg (by omega)]
        exact Int.ediv_le_of_le_mul hn' (by linarith)
      rw [Int.neg_tdiv] at h3
      omega
  · rcases le_total 0 s with h | h
    · rw [Int.tdiv_eq_ediv_of_nonneg h]
      exact Int.ediv_le_of_le_mul hn' h2
    · have := Int.tdiv_nonneg (a := -s) (b := n) (by omega) hn'.le
      rw [Int.neg_tdiv] at this
      omega

/-- The mask leaves the non-negative remainder modulo 2^16 (R167). -/
theorem mask16_toNat (d : Int) : ((mask16 d).toNat : Int) = d % 2 ^ 16 := by
  unfold mask16 bits64
  simp [BitVec.toNat_setWidth, BitVec.extractLsb'_toNat, BitVec.toNat_ofInt]
  omega

end Sys2Proof
end

