-- ==== Sys2Proof/Laws/State.lean ====
section
/-! SUPPORT. One lemma for each field of State and each named update: what the field is afterwards; and the updates that
leave the environment alone, moved past it. -/

namespace Sys2Proof.Machine

/-! `enter`: entering a phase writes FSM and TIMER. -/

@[simp] theorem State.enter_fsm (s : State) (f : FSM) (d : Nat) : (s.enter f d).fsm = f := rfl
@[simp] theorem State.enter_op (s : State) (f : FSM) (d : Nat) : (s.enter f d).op = s.op := rfl
@[simp] theorem State.enter_timer (s : State) (f : FSM) (d : Nat) : (s.enter f d).timer = BitVec.ofNat 32 (d - 1) := rfl
@[simp] theorem State.enter_bitCnt (s : State) (f : FSM) (d : Nat) : (s.enter f d).bitCnt = s.bitCnt := rfl
@[simp] theorem State.enter_acc (s : State) (f : FSM) (d : Nat) : (s.enter f d).acc = s.acc := rfl
@[simp] theorem State.enter_pollCnt (s : State) (f : FSM) (d : Nat) : (s.enter f d).pollCnt = s.pollCnt := rfl
@[simp] theorem State.enter_tCount (s : State) (f : FSM) (d : Nat) : (s.enter f d).tCount = s.tCount := rfl
@[simp] theorem State.enter_tSum (s : State) (f : FSM) (d : Nat) : (s.enter f d).tSum = s.tSum := rfl
@[simp] theorem State.enter_tareOffset (s : State) (f : FSM) (d : Nat) : (s.enter f d).tareOffset = s.tareOffset := rfl
@[simp] theorem State.enter_result (s : State) (f : FSM) (d : Nat) : (s.enter f d).result = s.result := rfl
@[simp] theorem State.enter_raw (s : State) (f : FSM) (d : Nat) : (s.enter f d).raw = s.raw := rfl
@[simp] theorem State.enter_initDone (s : State) (f : FSM) (d : Nat) : (s.enter f d).initDone = s.initDone := rfl
@[simp] theorem State.enter_done (s : State) (f : FSM) (d : Nat) : (s.enter f d).done = s.done := rfl
@[simp] theorem State.enter_err (s : State) (f : FSM) (d : Nat) : (s.enter f d).err = s.err := rfl
@[simp] theorem State.enter_clockPin (s : State) (f : FSM) (d : Nat) : (s.enter f d).clockPin = s.clockPin := rfl
@[simp] theorem State.enter_sync (s : State) (f : FSM) (d : Nat) : (s.enter f d).sync = s.sync := rfl
@[simp] theorem State.enter_cfg (s : State) (f : FSM) (d : Nat) : (s.enter f d).cfg = s.cfg := rfl
@[simp] theorem State.enter_edges (s : State) (f : FSM) (d : Nat) : (s.enter f d).edges = s.edges := rfl
@[simp] theorem State.enter_edgeNo (s : State) (f : FSM) (d : Nat) : (s.enter f d).edgeNo = s.edgeNo := rfl

/-! `goto`: moving to IDLE or WAIT writes FSM. -/

@[simp] theorem State.goto_fsm (s : State) (f : FSM) : (s.goto f).fsm = f := rfl
@[simp] theorem State.goto_op (s : State) (f : FSM) : (s.goto f).op = s.op := rfl
@[simp] theorem State.goto_timer (s : State) (f : FSM) : (s.goto f).timer = s.timer := rfl
@[simp] theorem State.goto_bitCnt (s : State) (f : FSM) : (s.goto f).bitCnt = s.bitCnt := rfl
@[simp] theorem State.goto_acc (s : State) (f : FSM) : (s.goto f).acc = s.acc := rfl
@[simp] theorem State.goto_pollCnt (s : State) (f : FSM) : (s.goto f).pollCnt = s.pollCnt := rfl
@[simp] theorem State.goto_tCount (s : State) (f : FSM) : (s.goto f).tCount = s.tCount := rfl
@[simp] theorem State.goto_tSum (s : State) (f : FSM) : (s.goto f).tSum = s.tSum := rfl
@[simp] theorem State.goto_tareOffset (s : State) (f : FSM) : (s.goto f).tareOffset = s.tareOffset := rfl
@[simp] theorem State.goto_result (s : State) (f : FSM) : (s.goto f).result = s.result := rfl
@[simp] theorem State.goto_raw (s : State) (f : FSM) : (s.goto f).raw = s.raw := rfl
@[simp] theorem State.goto_initDone (s : State) (f : FSM) : (s.goto f).initDone = s.initDone := rfl
@[simp] theorem State.goto_done (s : State) (f : FSM) : (s.goto f).done = s.done := rfl
@[simp] theorem State.goto_err (s : State) (f : FSM) : (s.goto f).err = s.err := rfl
@[simp] theorem State.goto_clockPin (s : State) (f : FSM) : (s.goto f).clockPin = s.clockPin := rfl
@[simp] theorem State.goto_sync (s : State) (f : FSM) : (s.goto f).sync = s.sync := rfl
@[simp] theorem State.goto_cfg (s : State) (f : FSM) : (s.goto f).cfg = s.cfg := rfl
@[simp] theorem State.goto_edges (s : State) (f : FSM) : (s.goto f).edges = s.edges := rfl
@[simp] theorem State.goto_edgeNo (s : State) (f : FSM) : (s.goto f).edgeNo = s.edgeNo := rfl

/-! `pinWrite`: a pin write writes CLOCK_PIN. -/

@[simp] theorem State.pinWrite_fsm (s : State) (l : Bool) : (s.pinWrite l).fsm = s.fsm := rfl
@[simp] theorem State.pinWrite_op (s : State) (l : Bool) : (s.pinWrite l).op = s.op := rfl
@[simp] theorem State.pinWrite_timer (s : State) (l : Bool) : (s.pinWrite l).timer = s.timer := rfl
@[simp] theorem State.pinWrite_bitCnt (s : State) (l : Bool) : (s.pinWrite l).bitCnt = s.bitCnt := rfl
@[simp] theorem State.pinWrite_acc (s : State) (l : Bool) : (s.pinWrite l).acc = s.acc := rfl
@[simp] theorem State.pinWrite_pollCnt (s : State) (l : Bool) : (s.pinWrite l).pollCnt = s.pollCnt := rfl
@[simp] theorem State.pinWrite_tCount (s : State) (l : Bool) : (s.pinWrite l).tCount = s.tCount := rfl
@[simp] theorem State.pinWrite_tSum (s : State) (l : Bool) : (s.pinWrite l).tSum = s.tSum := rfl
@[simp] theorem State.pinWrite_tareOffset (s : State) (l : Bool) : (s.pinWrite l).tareOffset = s.tareOffset := rfl
@[simp] theorem State.pinWrite_result (s : State) (l : Bool) : (s.pinWrite l).result = s.result := rfl
@[simp] theorem State.pinWrite_raw (s : State) (l : Bool) : (s.pinWrite l).raw = s.raw := rfl
@[simp] theorem State.pinWrite_initDone (s : State) (l : Bool) : (s.pinWrite l).initDone = s.initDone := rfl
@[simp] theorem State.pinWrite_done (s : State) (l : Bool) : (s.pinWrite l).done = s.done := rfl
@[simp] theorem State.pinWrite_err (s : State) (l : Bool) : (s.pinWrite l).err = s.err := rfl
@[simp] theorem State.pinWrite_clockPin (s : State) (l : Bool) : (s.pinWrite l).clockPin = l := rfl
@[simp] theorem State.pinWrite_sync (s : State) (l : Bool) : (s.pinWrite l).sync = s.sync := rfl
@[simp] theorem State.pinWrite_cfg (s : State) (l : Bool) : (s.pinWrite l).cfg = s.cfg := rfl
@[simp] theorem State.pinWrite_edges (s : State) (l : Bool) : (s.pinWrite l).edges = s.edges := rfl
@[simp] theorem State.pinWrite_edgeNo (s : State) (l : Bool) : (s.pinWrite l).edgeNo = s.edgeNo := rfl

/-! `withAcc`: writing the accumulator writes ACC and BITCNT. -/

@[simp] theorem State.withAcc_fsm (s : State) (a : Raw) (n : BitVec 5) : (s.withAcc a n).fsm = s.fsm := rfl
@[simp] theorem State.withAcc_op (s : State) (a : Raw) (n : BitVec 5) : (s.withAcc a n).op = s.op := rfl
@[simp] theorem State.withAcc_timer (s : State) (a : Raw) (n : BitVec 5) : (s.withAcc a n).timer = s.timer := rfl
@[simp] theorem State.withAcc_bitCnt (s : State) (a : Raw) (n : BitVec 5) : (s.withAcc a n).bitCnt = n := rfl
@[simp] theorem State.withAcc_acc (s : State) (a : Raw) (n : BitVec 5) : (s.withAcc a n).acc = a := rfl
@[simp] theorem State.withAcc_pollCnt (s : State) (a : Raw) (n : BitVec 5) : (s.withAcc a n).pollCnt = s.pollCnt := rfl
@[simp] theorem State.withAcc_tCount (s : State) (a : Raw) (n : BitVec 5) : (s.withAcc a n).tCount = s.tCount := rfl
@[simp] theorem State.withAcc_tSum (s : State) (a : Raw) (n : BitVec 5) : (s.withAcc a n).tSum = s.tSum := rfl
@[simp] theorem State.withAcc_tareOffset (s : State) (a : Raw) (n : BitVec 5) : (s.withAcc a n).tareOffset = s.tareOffset := rfl
@[simp] theorem State.withAcc_result (s : State) (a : Raw) (n : BitVec 5) : (s.withAcc a n).result = s.result := rfl
@[simp] theorem State.withAcc_raw (s : State) (a : Raw) (n : BitVec 5) : (s.withAcc a n).raw = s.raw := rfl
@[simp] theorem State.withAcc_initDone (s : State) (a : Raw) (n : BitVec 5) : (s.withAcc a n).initDone = s.initDone := rfl
@[simp] theorem State.withAcc_done (s : State) (a : Raw) (n : BitVec 5) : (s.withAcc a n).done = s.done := rfl
@[simp] theorem State.withAcc_err (s : State) (a : Raw) (n : BitVec 5) : (s.withAcc a n).err = s.err := rfl
@[simp] theorem State.withAcc_clockPin (s : State) (a : Raw) (n : BitVec 5) : (s.withAcc a n).clockPin = s.clockPin := rfl
@[simp] theorem State.withAcc_sync (s : State) (a : Raw) (n : BitVec 5) : (s.withAcc a n).sync = s.sync := rfl
@[simp] theorem State.withAcc_cfg (s : State) (a : Raw) (n : BitVec 5) : (s.withAcc a n).cfg = s.cfg := rfl
@[simp] theorem State.withAcc_edges (s : State) (a : Raw) (n : BitVec 5) : (s.withAcc a n).edges = s.edges := rfl
@[simp] theorem State.withAcc_edgeNo (s : State) (a : Raw) (n : BitVec 5) : (s.withAcc a n).edgeNo = s.edgeNo := rfl

/-! `withPollCnt`: writes POLLCNT. -/

@[simp] theorem State.withPollCnt_fsm (s : State) (n : BitVec 32) : (s.withPollCnt n).fsm = s.fsm := rfl
@[simp] theorem State.withPollCnt_op (s : State) (n : BitVec 32) : (s.withPollCnt n).op = s.op := rfl
@[simp] theorem State.withPollCnt_timer (s : State) (n : BitVec 32) : (s.withPollCnt n).timer = s.timer := rfl
@[simp] theorem State.withPollCnt_bitCnt (s : State) (n : BitVec 32) : (s.withPollCnt n).bitCnt = s.bitCnt := rfl
@[simp] theorem State.withPollCnt_acc (s : State) (n : BitVec 32) : (s.withPollCnt n).acc = s.acc := rfl
@[simp] theorem State.withPollCnt_pollCnt (s : State) (n : BitVec 32) : (s.withPollCnt n).pollCnt = n := rfl
@[simp] theorem State.withPollCnt_tCount (s : State) (n : BitVec 32) : (s.withPollCnt n).tCount = s.tCount := rfl
@[simp] theorem State.withPollCnt_tSum (s : State) (n : BitVec 32) : (s.withPollCnt n).tSum = s.tSum := rfl
@[simp] theorem State.withPollCnt_tareOffset (s : State) (n : BitVec 32) : (s.withPollCnt n).tareOffset = s.tareOffset := rfl
@[simp] theorem State.withPollCnt_result (s : State) (n : BitVec 32) : (s.withPollCnt n).result = s.result := rfl
@[simp] theorem State.withPollCnt_raw (s : State) (n : BitVec 32) : (s.withPollCnt n).raw = s.raw := rfl
@[simp] theorem State.withPollCnt_initDone (s : State) (n : BitVec 32) : (s.withPollCnt n).initDone = s.initDone := rfl
@[simp] theorem State.withPollCnt_done (s : State) (n : BitVec 32) : (s.withPollCnt n).done = s.done := rfl
@[simp] theorem State.withPollCnt_err (s : State) (n : BitVec 32) : (s.withPollCnt n).err = s.err := rfl
@[simp] theorem State.withPollCnt_clockPin (s : State) (n : BitVec 32) : (s.withPollCnt n).clockPin = s.clockPin := rfl
@[simp] theorem State.withPollCnt_sync (s : State) (n : BitVec 32) : (s.withPollCnt n).sync = s.sync := rfl
@[simp] theorem State.withPollCnt_cfg (s : State) (n : BitVec 32) : (s.withPollCnt n).cfg = s.cfg := rfl
@[simp] theorem State.withPollCnt_edges (s : State) (n : BitVec 32) : (s.withPollCnt n).edges = s.edges := rfl
@[simp] theorem State.withPollCnt_edgeNo (s : State) (n : BitVec 32) : (s.withPollCnt n).edgeNo = s.edgeNo := rfl

/-! `acceptance`: acceptance clears DONE and ERR. -/

@[simp] theorem State.acceptance_fsm (s : State) : (s.acceptance).fsm = s.fsm := rfl
@[simp] theorem State.acceptance_op (s : State) : (s.acceptance).op = s.op := rfl
@[simp] theorem State.acceptance_timer (s : State) : (s.acceptance).timer = s.timer := rfl
@[simp] theorem State.acceptance_bitCnt (s : State) : (s.acceptance).bitCnt = s.bitCnt := rfl
@[simp] theorem State.acceptance_acc (s : State) : (s.acceptance).acc = s.acc := rfl
@[simp] theorem State.acceptance_pollCnt (s : State) : (s.acceptance).pollCnt = s.pollCnt := rfl
@[simp] theorem State.acceptance_tCount (s : State) : (s.acceptance).tCount = s.tCount := rfl
@[simp] theorem State.acceptance_tSum (s : State) : (s.acceptance).tSum = s.tSum := rfl
@[simp] theorem State.acceptance_tareOffset (s : State) : (s.acceptance).tareOffset = s.tareOffset := rfl
@[simp] theorem State.acceptance_result (s : State) : (s.acceptance).result = s.result := rfl
@[simp] theorem State.acceptance_raw (s : State) : (s.acceptance).raw = s.raw := rfl
@[simp] theorem State.acceptance_initDone (s : State) : (s.acceptance).initDone = s.initDone := rfl
@[simp] theorem State.acceptance_done (s : State) : (s.acceptance).done = false := rfl
@[simp] theorem State.acceptance_err (s : State) : (s.acceptance).err = 0#3 := rfl
@[simp] theorem State.acceptance_clockPin (s : State) : (s.acceptance).clockPin = s.clockPin := rfl
@[simp] theorem State.acceptance_sync (s : State) : (s.acceptance).sync = s.sync := rfl
@[simp] theorem State.acceptance_cfg (s : State) : (s.acceptance).cfg = s.cfg := rfl
@[simp] theorem State.acceptance_edges (s : State) : (s.acceptance).edges = s.edges := rfl
@[simp] theorem State.acceptance_edgeNo (s : State) : (s.acceptance).edgeNo = s.edgeNo := rfl

/-! `finish`: completion sets DONE and returns to IDLE. -/

@[simp] theorem State.finish_fsm (s : State) : (s.finish).fsm = .idle := rfl
@[simp] theorem State.finish_op (s : State) : (s.finish).op = s.op := rfl
@[simp] theorem State.finish_timer (s : State) : (s.finish).timer = s.timer := rfl
@[simp] theorem State.finish_bitCnt (s : State) : (s.finish).bitCnt = s.bitCnt := rfl
@[simp] theorem State.finish_acc (s : State) : (s.finish).acc = s.acc := rfl
@[simp] theorem State.finish_pollCnt (s : State) : (s.finish).pollCnt = s.pollCnt := rfl
@[simp] theorem State.finish_tCount (s : State) : (s.finish).tCount = s.tCount := rfl
@[simp] theorem State.finish_tSum (s : State) : (s.finish).tSum = s.tSum := rfl
@[simp] theorem State.finish_tareOffset (s : State) : (s.finish).tareOffset = s.tareOffset := rfl
@[simp] theorem State.finish_result (s : State) : (s.finish).result = s.result := rfl
@[simp] theorem State.finish_raw (s : State) : (s.finish).raw = s.raw := rfl
@[simp] theorem State.finish_initDone (s : State) : (s.finish).initDone = s.initDone := rfl
@[simp] theorem State.finish_done (s : State) : (s.finish).done = true := rfl
@[simp] theorem State.finish_err (s : State) : (s.finish).err = s.err := rfl
@[simp] theorem State.finish_clockPin (s : State) : (s.finish).clockPin = s.clockPin := rfl
@[simp] theorem State.finish_sync (s : State) : (s.finish).sync = s.sync := rfl
@[simp] theorem State.finish_cfg (s : State) : (s.finish).cfg = s.cfg := rfl
@[simp] theorem State.finish_edges (s : State) : (s.finish).edges = s.edges := rfl
@[simp] theorem State.finish_edgeNo (s : State) : (s.finish).edgeNo = s.edgeNo := rfl

/-! `raise`: an error writes ERR and returns to IDLE. -/

@[simp] theorem State.raise_fsm (s : State) (e : ErrCode) : (s.raise e).fsm = .idle := rfl
@[simp] theorem State.raise_op (s : State) (e : ErrCode) : (s.raise e).op = s.op := rfl
@[simp] theorem State.raise_timer (s : State) (e : ErrCode) : (s.raise e).timer = s.timer := rfl
@[simp] theorem State.raise_bitCnt (s : State) (e : ErrCode) : (s.raise e).bitCnt = s.bitCnt := rfl
@[simp] theorem State.raise_acc (s : State) (e : ErrCode) : (s.raise e).acc = s.acc := rfl
@[simp] theorem State.raise_pollCnt (s : State) (e : ErrCode) : (s.raise e).pollCnt = s.pollCnt := rfl
@[simp] theorem State.raise_tCount (s : State) (e : ErrCode) : (s.raise e).tCount = s.tCount := rfl
@[simp] theorem State.raise_tSum (s : State) (e : ErrCode) : (s.raise e).tSum = s.tSum := rfl
@[simp] theorem State.raise_tareOffset (s : State) (e : ErrCode) : (s.raise e).tareOffset = s.tareOffset := rfl
@[simp] theorem State.raise_result (s : State) (e : ErrCode) : (s.raise e).result = s.result := rfl
@[simp] theorem State.raise_raw (s : State) (e : ErrCode) : (s.raise e).raw = s.raw := rfl
@[simp] theorem State.raise_initDone (s : State) (e : ErrCode) : (s.raise e).initDone = s.initDone := rfl
@[simp] theorem State.raise_done (s : State) (e : ErrCode) : (s.raise e).done = s.done := rfl
@[simp] theorem State.raise_err (s : State) (e : ErrCode) : (s.raise e).err = e.code := rfl
@[simp] theorem State.raise_clockPin (s : State) (e : ErrCode) : (s.raise e).clockPin = s.clockPin := rfl
@[simp] theorem State.raise_sync (s : State) (e : ErrCode) : (s.raise e).sync = s.sync := rfl
@[simp] theorem State.raise_cfg (s : State) (e : ErrCode) : (s.raise e).cfg = s.cfg := rfl
@[simp] theorem State.raise_edges (s : State) (e : ErrCode) : (s.raise e).edges = s.edges := rfl
@[simp] theorem State.raise_edgeNo (s : State) (e : ErrCode) : (s.raise e).edgeNo = s.edgeNo := rfl

/-! `startFrames`: a frame command writes OP, POLLCNT and FSM. -/

@[simp] theorem State.startFrames_fsm (s : State) (c : OpKind) : (s.startFrames c).fsm = .wait := rfl
@[simp] theorem State.startFrames_op (s : State) (c : OpKind) : (s.startFrames c).op = c := rfl
@[simp] theorem State.startFrames_timer (s : State) (c : OpKind) : (s.startFrames c).timer = s.timer := rfl
@[simp] theorem State.startFrames_bitCnt (s : State) (c : OpKind) : (s.startFrames c).bitCnt = s.bitCnt := rfl
@[simp] theorem State.startFrames_acc (s : State) (c : OpKind) : (s.startFrames c).acc = s.acc := rfl
@[simp] theorem State.startFrames_pollCnt (s : State) (c : OpKind) : (s.startFrames c).pollCnt = 0#32 := rfl
@[simp] theorem State.startFrames_tCount (s : State) (c : OpKind) : (s.startFrames c).tCount = s.tCount := rfl
@[simp] theorem State.startFrames_tSum (s : State) (c : OpKind) : (s.startFrames c).tSum = s.tSum := rfl
@[simp] theorem State.startFrames_tareOffset (s : State) (c : OpKind) : (s.startFrames c).tareOffset = s.tareOffset := rfl
@[simp] theorem State.startFrames_result (s : State) (c : OpKind) : (s.startFrames c).result = s.result := rfl
@[simp] theorem State.startFrames_raw (s : State) (c : OpKind) : (s.startFrames c).raw = s.raw := rfl
@[simp] theorem State.startFrames_initDone (s : State) (c : OpKind) : (s.startFrames c).initDone = s.initDone := rfl
@[simp] theorem State.startFrames_done (s : State) (c : OpKind) : (s.startFrames c).done = s.done := rfl
@[simp] theorem State.startFrames_err (s : State) (c : OpKind) : (s.startFrames c).err = s.err := rfl
@[simp] theorem State.startFrames_clockPin (s : State) (c : OpKind) : (s.startFrames c).clockPin = s.clockPin := rfl
@[simp] theorem State.startFrames_sync (s : State) (c : OpKind) : (s.startFrames c).sync = s.sync := rfl
@[simp] theorem State.startFrames_cfg (s : State) (c : OpKind) : (s.startFrames c).cfg = s.cfg := rfl
@[simp] theorem State.startFrames_edges (s : State) (c : OpKind) : (s.startFrames c).edges = s.edges := rfl
@[simp] theorem State.startFrames_edgeNo (s : State) (c : OpKind) : (s.startFrames c).edgeNo = s.edgeNo := rfl

/-! `clocked`: an edge shifts SYNC and uses up the ports' levels. -/

@[simp] theorem State.clocked_fsm (s : State) : (s.clocked).fsm = s.fsm := rfl
@[simp] theorem State.clocked_op (s : State) : (s.clocked).op = s.op := rfl
@[simp] theorem State.clocked_timer (s : State) : (s.clocked).timer = s.timer := rfl
@[simp] theorem State.clocked_bitCnt (s : State) : (s.clocked).bitCnt = s.bitCnt := rfl
@[simp] theorem State.clocked_acc (s : State) : (s.clocked).acc = s.acc := rfl
@[simp] theorem State.clocked_pollCnt (s : State) : (s.clocked).pollCnt = s.pollCnt := rfl
@[simp] theorem State.clocked_tCount (s : State) : (s.clocked).tCount = s.tCount := rfl
@[simp] theorem State.clocked_tSum (s : State) : (s.clocked).tSum = s.tSum := rfl
@[simp] theorem State.clocked_tareOffset (s : State) : (s.clocked).tareOffset = s.tareOffset := rfl
@[simp] theorem State.clocked_result (s : State) : (s.clocked).result = s.result := rfl
@[simp] theorem State.clocked_raw (s : State) : (s.clocked).raw = s.raw := rfl
@[simp] theorem State.clocked_initDone (s : State) : (s.clocked).initDone = s.initDone := rfl
@[simp] theorem State.clocked_done (s : State) : (s.clocked).done = s.done := rfl
@[simp] theorem State.clocked_err (s : State) : (s.clocked).err = s.err := rfl
@[simp] theorem State.clocked_clockPin (s : State) : (s.clocked).clockPin = s.clockPin := rfl
@[simp] theorem State.clocked_sync (s : State) : (s.clocked).sync = ((s.portAt 0).dataPin :: s.sync).dropLast := rfl
@[simp] theorem State.clocked_cfg (s : State) : (s.clocked).cfg = s.cfg := rfl
@[simp] theorem State.clocked_edges (s : State) : (s.clocked).edges = s.edges.tail := rfl
@[simp] theorem State.clocked_edgeNo (s : State) : (s.clocked).edgeNo = s.edgeNo + 1 := rfl

/-! `clockedBy`: edges on which no row acts move SYNC and the environment. -/

@[simp] theorem State.clockedBy_fsm (s : State) (n : Nat) : (s.clockedBy n).fsm = s.fsm := rfl
@[simp] theorem State.clockedBy_op (s : State) (n : Nat) : (s.clockedBy n).op = s.op := rfl
@[simp] theorem State.clockedBy_timer (s : State) (n : Nat) : (s.clockedBy n).timer = s.timer := rfl
@[simp] theorem State.clockedBy_bitCnt (s : State) (n : Nat) : (s.clockedBy n).bitCnt = s.bitCnt := rfl
@[simp] theorem State.clockedBy_acc (s : State) (n : Nat) : (s.clockedBy n).acc = s.acc := rfl
@[simp] theorem State.clockedBy_pollCnt (s : State) (n : Nat) : (s.clockedBy n).pollCnt = s.pollCnt := rfl
@[simp] theorem State.clockedBy_tCount (s : State) (n : Nat) : (s.clockedBy n).tCount = s.tCount := rfl
@[simp] theorem State.clockedBy_tSum (s : State) (n : Nat) : (s.clockedBy n).tSum = s.tSum := rfl
@[simp] theorem State.clockedBy_tareOffset (s : State) (n : Nat) : (s.clockedBy n).tareOffset = s.tareOffset := rfl
@[simp] theorem State.clockedBy_result (s : State) (n : Nat) : (s.clockedBy n).result = s.result := rfl
@[simp] theorem State.clockedBy_raw (s : State) (n : Nat) : (s.clockedBy n).raw = s.raw := rfl
@[simp] theorem State.clockedBy_initDone (s : State) (n : Nat) : (s.clockedBy n).initDone = s.initDone := rfl
@[simp] theorem State.clockedBy_done (s : State) (n : Nat) : (s.clockedBy n).done = s.done := rfl
@[simp] theorem State.clockedBy_err (s : State) (n : Nat) : (s.clockedBy n).err = s.err := rfl
@[simp] theorem State.clockedBy_clockPin (s : State) (n : Nat) : (s.clockedBy n).clockPin = s.clockPin := rfl
@[simp] theorem State.clockedBy_sync (s : State) (n : Nat) : (s.clockedBy n).sync = syncAfter s.sync s.edges s.edgeNo n := rfl
@[simp] theorem State.clockedBy_cfg (s : State) (n : Nat) : (s.clockedBy n).cfg = s.cfg := rfl
@[simp] theorem State.clockedBy_edges (s : State) (n : Nat) : (s.clockedBy n).edges = s.edges.drop n := rfl
@[simp] theorem State.clockedBy_edgeNo (s : State) (n : Nat) : (s.clockedBy n).edgeNo = s.edgeNo + n := rfl

/-! `resetEdge`: reset writes every register. -/

@[simp] theorem State.resetEdge_fsm (s : State) : (s.resetEdge).fsm = .idle := rfl
@[simp] theorem State.resetEdge_op (s : State) : (s.resetEdge).op = .none := rfl
@[simp] theorem State.resetEdge_timer (s : State) : (s.resetEdge).timer = 0#32 := rfl
@[simp] theorem State.resetEdge_bitCnt (s : State) : (s.resetEdge).bitCnt = 0#5 := rfl
@[simp] theorem State.resetEdge_acc (s : State) : (s.resetEdge).acc = 0#24 := rfl
@[simp] theorem State.resetEdge_pollCnt (s : State) : (s.resetEdge).pollCnt = 0#32 := rfl
@[simp] theorem State.resetEdge_tCount (s : State) : (s.resetEdge).tCount = 0#16 := rfl
@[simp] theorem State.resetEdge_tSum (s : State) : (s.resetEdge).tSum = 0#64 := rfl
@[simp] theorem State.resetEdge_tareOffset (s : State) : (s.resetEdge).tareOffset = 0#64 := rfl
@[simp] theorem State.resetEdge_result (s : State) : (s.resetEdge).result = 0#64 := rfl
@[simp] theorem State.resetEdge_raw (s : State) : (s.resetEdge).raw = 0#24 := rfl
@[simp] theorem State.resetEdge_initDone (s : State) : (s.resetEdge).initDone = false := rfl
@[simp] theorem State.resetEdge_done (s : State) : (s.resetEdge).done = false := rfl
@[simp] theorem State.resetEdge_err (s : State) : (s.resetEdge).err = 0#3 := rfl
@[simp] theorem State.resetEdge_clockPin (s : State) : (s.resetEdge).clockPin = false := rfl
@[simp] theorem State.resetEdge_sync (s : State) : (s.resetEdge).sync = List.replicate s.cfg.syncStages true := rfl
@[simp] theorem State.resetEdge_cfg (s : State) : (s.resetEdge).cfg = s.cfg := rfl
@[simp] theorem State.resetEdge_edges (s : State) : (s.resetEdge).edges = s.edges.tail := rfl
@[simp] theorem State.resetEdge_edgeNo (s : State) : (s.resetEdge).edgeNo = s.edgeNo + 1 := rfl

/-! The updates of a frame leave the ports' levels and what SYNC shows alone, and commute with the environment. -/

@[simp] theorem State.enter_portAt (s : State) (f : FSM) (d : Nat) (j : Nat) : (s.enter f d).portAt j = s.portAt j := rfl
@[simp] theorem State.enter_seen (s : State) (f : FSM) (d : Nat) (j : Nat) : (s.enter f d).seen j = s.seen j := rfl
@[simp] theorem State.enter_noReset (s : State) (f : FSM) (d : Nat) (n : Nat) : (s.enter f d).noReset n = s.noReset n := rfl
@[simp] theorem State.enter_clocked (s : State) (f : FSM) (d : Nat) : (s.enter f d).clocked = s.clocked.enter f d := rfl
@[simp] theorem State.enter_clockedBy (s : State) (f : FSM) (d : Nat) (j : Nat) : (s.enter f d).clockedBy j = (s.clockedBy j).enter f d := rfl
@[simp] theorem State.goto_portAt (s : State) (f : FSM) (j : Nat) : (s.goto f).portAt j = s.portAt j := rfl
@[simp] theorem State.goto_seen (s : State) (f : FSM) (j : Nat) : (s.goto f).seen j = s.seen j := rfl
@[simp] theorem State.goto_noReset (s : State) (f : FSM) (n : Nat) : (s.goto f).noReset n = s.noReset n := rfl
@[simp] theorem State.goto_clocked (s : State) (f : FSM) : (s.goto f).clocked = s.clocked.goto f := rfl
@[simp] theorem State.goto_clockedBy (s : State) (f : FSM) (j : Nat) : (s.goto f).clockedBy j = (s.clockedBy j).goto f := rfl
@[simp] theorem State.pinWrite_portAt (s : State) (l : Bool) (j : Nat) : (s.pinWrite l).portAt j = s.portAt j := rfl
@[simp] theorem State.pinWrite_seen (s : State) (l : Bool) (j : Nat) : (s.pinWrite l).seen j = s.seen j := rfl
@[simp] theorem State.pinWrite_noReset (s : State) (l : Bool) (n : Nat) : (s.pinWrite l).noReset n = s.noReset n := rfl
@[simp] theorem State.pinWrite_clocked (s : State) (l : Bool) : (s.pinWrite l).clocked = s.clocked.pinWrite l := rfl
@[simp] theorem State.pinWrite_clockedBy (s : State) (l : Bool) (j : Nat) : (s.pinWrite l).clockedBy j = (s.clockedBy j).pinWrite l := rfl
@[simp] theorem State.withAcc_portAt (s : State) (a : Raw) (n : BitVec 5) (j : Nat) : (s.withAcc a n).portAt j = s.portAt j := rfl
@[simp] theorem State.withAcc_seen (s : State) (a : Raw) (n : BitVec 5) (j : Nat) : (s.withAcc a n).seen j = s.seen j := rfl
@[simp] theorem State.withAcc_noReset (s : State) (a : Raw) (n : BitVec 5) (m : Nat) : (s.withAcc a n).noReset m = s.noReset m := rfl
@[simp] theorem State.withAcc_clocked (s : State) (a : Raw) (n : BitVec 5) : (s.withAcc a n).clocked = s.clocked.withAcc a n := rfl
@[simp] theorem State.withAcc_clockedBy (s : State) (a : Raw) (n : BitVec 5) (j : Nat) : (s.withAcc a n).clockedBy j = (s.clockedBy j).withAcc a n := rfl
@[simp] theorem State.withPollCnt_portAt (s : State) (n : BitVec 32) (j : Nat) : (s.withPollCnt n).portAt j = s.portAt j := rfl
@[simp] theorem State.withPollCnt_seen (s : State) (n : BitVec 32) (j : Nat) : (s.withPollCnt n).seen j = s.seen j := rfl
@[simp] theorem State.withPollCnt_noReset (s : State) (n : BitVec 32) (m : Nat) : (s.withPollCnt n).noReset m = s.noReset m := rfl
@[simp] theorem State.withPollCnt_clocked (s : State) (n : BitVec 32) : (s.withPollCnt n).clocked = s.clocked.withPollCnt n := rfl
@[simp] theorem State.withPollCnt_clockedBy (s : State) (n : BitVec 32) (j : Nat) : (s.withPollCnt n).clockedBy j = (s.clockedBy j).withPollCnt n := rfl

/-! Of two writes to the same registers the later one stays. -/

@[simp] theorem State.enter_enter (s : State) (f g : FSM) (d e : Nat) : (s.enter f d).enter g e = s.enter g e := rfl
@[simp] theorem State.goto_enter (s : State) (f g : FSM) (d : Nat) : (s.goto f).enter g d = s.enter g d := rfl
@[simp] theorem State.enter_pinWrite (s : State) (f : FSM) (d : Nat) (l : Bool) :
    (s.enter f d).pinWrite l = (s.pinWrite l).enter f d := rfl
@[simp] theorem State.enter_withAcc (s : State) (f : FSM) (d : Nat) (a : Raw) (n : BitVec 5) :
    (s.enter f d).withAcc a n = (s.withAcc a n).enter f d := rfl
@[simp] theorem State.enter_withPollCnt (s : State) (f : FSM) (d : Nat) (n : BitVec 32) :
    (s.enter f d).withPollCnt n = (s.withPollCnt n).enter f d := rfl
@[simp] theorem State.pinWrite_pinWrite (s : State) (l m : Bool) : (s.pinWrite l).pinWrite m = s.pinWrite m := rfl
@[simp] theorem State.pinWrite_withAcc (s : State) (l : Bool) (a : Raw) (n : BitVec 5) :
    (s.pinWrite l).withAcc a n = (s.withAcc a n).pinWrite l := rfl
@[simp] theorem State.withAcc_withAcc (s : State) (a b : Raw) (m n : BitVec 5) :
    (s.withAcc a m).withAcc b n = s.withAcc b n := rfl
@[simp] theorem State.withPollCnt_withPollCnt (s : State) (m n : BitVec 32) :
    (s.withPollCnt m).withPollCnt n = s.withPollCnt n := rfl

end Sys2Proof.Machine
end

