-- ==== Sys2Proof/Laws/Run.lean ====
section
/-! SUPPORT. The environment along a run, one step as a row of R112's table, runs put end to end, and a timed phase run to
its end. -/

namespace Sys2Proof.Machine

/-! ### The environment along a run -/

theorem State.portAt_clocked (s : State) (j : Nat) : s.clocked.portAt j = s.portAt (j + 1) := by
  unfold State.portAt
  cases h : s.edges <;> simp [h, Nat.add_assoc, Nat.add_comm 1 j]

/-- `data_sync` at the coming edge is what `seen` says of edge 0. -/
theorem State.dataSync_eq_seen (s : State) : s.dataSync (s.portAt 0).dataPin = s.seen 0 := by
  unfold State.dataSync State.seen
  rcases s.sync.eq_nil_or_concat with h | ⟨l, b, h⟩ <;> simp [h]

/-- One edge on, the levels seen come one edge sooner (R115). -/
theorem State.seen_clocked (s : State) (j : Nat) : s.clocked.seen j = s.seen (j + 1) := by
  unfold State.seen
  rcases s.sync.eq_nil_or_concat with h | ⟨l, b, h⟩
  · simp [h, State.portAt_clocked]
  · have hd : ((s.portAt 0).dataPin :: (l ++ [b])).dropLast = (s.portAt 0).dataPin :: l := by
      rw [← List.cons_append, List.dropLast_concat]
    simp only [State.clocked_sync, h, List.concat_eq_append, hd, List.length_cons, List.length_append, List.length_nil,
      State.portAt_clocked]
    by_cases h1 : j < l.length
    · rw [if_pos (by omega), if_pos (by omega)]
      rw [show l.length + 1 - 1 - j = (l.length - 1 - j) + 1 by omega, List.getD_cons_succ,
        show l.length + (0 + 1) - 1 - (j + 1) = l.length - 1 - j by omega]
      rw [List.getD_eq_getElem?_getD, List.getD_eq_getElem?_getD, List.getElem?_append_left (by omega)]
    · by_cases h2 : j = l.length
      · subst h2
        rw [if_pos (by omega), if_neg (by omega)]
        simp
      · rw [if_neg (by omega), if_neg (by omega)]
        congr 2
        omega

@[simp] theorem State.clockedBy_zero (s : State) : s.clockedBy 0 = s := rfl

theorem State.portAt_clockedBy (s : State) (n j : Nat) : (s.clockedBy n).portAt j = s.portAt (n + j) := by
  unfold State.portAt State.clockedBy
  simp [List.getD_eq_getElem?_getD, List.getElem?_drop, Nat.add_assoc]

theorem State.clockedBy_succ (s : State) (n : Nat) : s.clockedBy (n + 1) = (s.clockedBy n).clocked := by
  have h : (s.clockedBy n).portAt 0 = s.portAt n := by simp [State.portAt_clockedBy]
  unfold State.clocked
  rw [h]
  simp [State.clockedBy, syncAfter, State.portAt, Nat.add_assoc]

theorem State.clockedBy_one (s : State) : s.clockedBy 1 = s.clocked := by
  simpa using s.clockedBy_succ 0

theorem State.clockedBy_add (s : State) (m n : Nat) : (s.clockedBy m).clockedBy n = s.clockedBy (m + n) := by
  induction n with
  | zero => rfl
  | succ n ih => rw [State.clockedBy_succ, ih, ← Nat.add_assoc, State.clockedBy_succ]

theorem State.clocked_clockedBy (s : State) (n : Nat) : s.clocked.clockedBy n = s.clockedBy (n + 1) := by
  rw [← State.clockedBy_one, State.clockedBy_add, Nat.add_comm]

theorem State.seen_clockedBy (s : State) (n j : Nat) : (s.clockedBy n).seen j = s.seen (n + j) := by
  induction n generalizing j with
  | zero => simp
  | succ n ih => rw [State.clockedBy_succ, State.seen_clocked, ih]; congr 1; omega

theorem State.noReset_clockedBy {s : State} {m n : Nat} (h : s.noReset (m + n)) : (s.clockedBy m).noReset n := by
  intro j hj
  rw [State.portAt_clockedBy]
  exact h _ (by omega)

theorem State.noReset_mono {s : State} {m n : Nat} (h : s.noReset n) (hmn : m ≤ n) : s.noReset m :=
  fun j hj => h j (by omega)

/-! ### One step -/

theorem step_refuses (s : State) (hv : s.cfg.valid = false) : step s = .refused .badConfig := by
  simp [step, hv]

theorem step_reset (s : State) (hv : s.cfg.valid = true) (hr : (s.portAt 0).rst = true) : step s = .next s.resetEdge := by
  simp [step, tick, hv, hr]

/-- Without reset a step is the row of R112's table that its phase selects. -/
theorem step_row (s : State) (hv : s.cfg.valid = true) (hr : (s.portAt 0).rst = false) :
    step s = row (s.portAt 0) (s.seen 0) s.clocked := by
  simp [step, tick, hv, hr, State.dataSync_eq_seen]

/-- What a step that goes on can be: a reset, or a row. -/
theorem step_next_cases {s t : State} (h : step s = .next t) :
    s.cfg.valid = true ∧
      ((s.portAt 0).rst = true ∧ t = s.resetEdge ∨
        (s.portAt 0).rst = false ∧ row (s.portAt 0) (s.seen 0) s.clocked = .next t) := by
  cases hv : s.cfg.valid
  · simp [step_refuses s hv] at h
  · cases hr : (s.portAt 0).rst
    · rw [step_row s hv hr] at h
      exact ⟨rfl, .inr ⟨rfl, h⟩⟩
    · rw [step_reset s hv hr] at h
      injection h with h
      exact ⟨rfl, .inl ⟨rfl, h.symm⟩⟩

/-- The phases that count TIMER down. -/
def FSM.isTimed : FSM → Bool
  | .idle | .wait => false
  | .settle | .pollHold | .high | .low | .cselHigh | .cselLow | .rest => true

theorem row_countdown (p : PortIn) (d : Bool) (s : State) (hf : s.fsm.isTimed = true) (ht : s.timer ≠ 0#32) :
    row p d s = .next { s with timer := s.timer - 1#32 } := by
  unfold row
  cases hfs : s.fsm <;> simp [hfs, FSM.isTimed] at hf ⊢ <;> simp [State.timed, ht, hfs]

/-! ### Runs -/

@[simp] theorem runFor_zero (s : State) : runFor 0 s = .next s := rfl

theorem runFor_succ_of_next {s t : State} (n : Nat) (h : step s = .next t) : runFor (n + 1) s = runFor n t := by
  simp [runFor, h]

@[simp] theorem runFor_one (s : State) : runFor 1 s = step s := by
  unfold runFor
  cases step s <;> rfl

theorem runFor_add {s t : State} {m : Nat} (n : Nat) (h : runFor m s = .next t) : runFor (m + n) s = runFor n t := by
  induction m generalizing s with
  | zero => simp at h; simp [h]
  | succ m ih =>
    rw [Nat.add_right_comm]
    cases hs : step s with
    | next u => rw [runFor_succ_of_next _ hs] at h ⊢; exact ih h
    | fault r => simp [runFor, hs] at h
    | refused r => simp [runFor, hs] at h

/-- A timed phase counts down: `n` ticks leave TIMER at 0 and move nothing else (R30). -/
theorem runFor_countdown (n : Nat) (s : State) (hv : s.cfg.valid = true) (hf : s.fsm.isTimed = true)
    (ht : s.timer.toNat = n) (hr : s.noReset n) : runFor n s = .next ((s.clockedBy n).enter s.fsm 1) := by
  induction n generalizing s with
  | zero =>
    have h0 : s.timer = 0#32 := by apply BitVec.eq_of_toNat_eq; simpa using ht
    have : s.enter s.fsm 1 = s := by unfold State.enter; rw [← h0]
    simp [this]
  | succ n ih =>
    have hne : s.timer ≠ 0#32 := by intro h; simp [h] at ht
    have hstep : step s = .next { s.clocked with timer := s.timer - 1#32 } := by
      rw [step_row s hv (hr 0 (by omega)), row_countdown _ _ _ (by simpa using hf) (by simpa using hne)]
      rfl
    rw [runFor_succ_of_next n hstep, ih]
    · rw [← State.clocked_clockedBy]; rfl
    · exact hv
    · exact hf
    · have := s.timer.isLt
      simp [BitVec.toNat_sub]
      omega
    · intro j hj
      exact (State.portAt_clocked s j).symm ▸ hr (j + 1) (by omega)

/-- A phase of `d` ticks from its entry: `d` ticks on, its exit row acts, with what the environment drives by then. -/
theorem runFor_entered (s : State) (f : FSM) (d : Nat) (hv : s.cfg.valid = true) (hf : f.isTimed = true) (h1 : 1 ≤ d)
    (h2 : d ≤ 2 ^ 32) (hr : s.noReset d) :
    runFor d (s.enter f d) = row (s.portAt (d - 1)) (s.seen (d - 1)) ((s.clockedBy d).enter f 1) := by
  obtain ⟨n, rfl⟩ : ∃ n, d = n + 1 := ⟨d - 1, by omega⟩
  have hcount := runFor_countdown n (s.enter f (n + 1)) hv hf
    (by simp only [State.enter_timer]; rw [BitVec.toNat_ofNat]; exact Nat.mod_eq_of_lt (by omega))
    (State.noReset_mono (s := s) hr (by omega))
  rw [runFor_add 1 hcount, runFor_one, step_row]
  · simp [State.portAt_clockedBy, State.seen_clockedBy, State.clockedBy_succ]
  · exact hv
  · simpa [State.portAt_clockedBy] using hr n (by omega)

end Sys2Proof.Machine
end

