-- ==== Sys2Proof/Laws/Timing.lean ====
section
/-! SUPPORT. Facts about tick counts and the configurations the model gives a meaning. -/

namespace Sys2Proof

theorem one_le_ticksOf (n d : Nat) : 1 ≤ ticksOf n d := Nat.le_max_left ..

namespace Config

theorem one_le_tPoll (c : Config) : 1 ≤ c.tPoll := one_le_ticksOf ..
theorem one_le_tHigh (c : Config) : 1 ≤ c.tHigh := one_le_ticksOf ..
theorem one_le_tLow (c : Config) : 1 ≤ c.tLow := one_le_ticksOf ..
theorem one_le_tSettle (c : Config) : 1 ≤ c.tSettle := one_le_ticksOf ..
theorem one_le_tRest (c : Config) : 1 ≤ c.tRest := one_le_ticksOf ..

/-- The checks one by one. -/
theorem valid_iff (c : Config) :
    c.valid = true ↔ c.inDomain = true ∧ c.tareCountOk = true ∧ c.settleOk = true ∧ c.ticksFit = true ∧
      c.syncFits = true ∧ c.dataValidOk = true ∧ c.powerDownOk = true := by
  simp [valid]

/-- R8 (1). -/
theorem tareCount_of_valid {c : Config} (h : c.valid = true) : 1 ≤ c.nTare ∧ c.nTare ≤ 65535 := by
  have := (valid_iff c).1 h
  simpa [tareCountOk] using this.2.1

/-- R8 (3): every tick count fits TIMER. -/
theorem ticks_of_valid {c : Config} (h : c.valid = true) :
    c.tPoll ≤ 2 ^ 32 ∧ c.tHigh ≤ 2 ^ 32 ∧ c.tLow ≤ 2 ^ 32 ∧ c.tSettle ≤ 2 ^ 32 ∧ c.tRest ≤ 2 ^ 32 := by
  have := (valid_iff c).1 h
  simpa [ticksFit] using this.2.2.2.1

/-- The domain of `READY_TIMEOUT_POLLS` (R6). -/
theorem timeout_of_valid {c : Config} (h : c.valid = true) {k : Nat} (hk : c.readyTimeoutPolls = some k) :
    1 ≤ k ∧ k ≤ 2 ^ 32 - 1 := by
  have := (valid_iff c).1 h
  have := this.1
  simp [inDomain, hk] at this
  omega

/-- R8 (4). -/
theorem sync_of_valid {c : Config} (h : c.valid = true) : c.syncStages + 1 ≤ c.tHigh := by
  have := (valid_iff c).1 h
  simpa [syncFits] using this.2.2.2.2.1

end Config

/-- A phase length of at most 2^32 ticks is in TIMER after the load `d − 1` (R30). -/
theorem timerLoad_toNat {d : Nat} (h1 : 1 ≤ d) (h2 : d ≤ 2 ^ 32) : (BitVec.ofNat 32 (d - 1)).toNat = d - 1 := by
  rw [BitVec.toNat_ofNat]
  exact Nat.mod_eq_of_lt (by omega)

end Sys2Proof
end

