-- ==== Sys2Proof/Laws/Frame.lean ====
section
/-! SUPPORT. The frame (40_acquisition.md R102 to R108) run from its entry into WAIT to its completion action, pulse by pulse. -/

namespace Sys2Proof.Machine

/-- The converter's answers, moved along a run. -/
theorem State.convFrame_clockedBy (s : State) (m o k : Nat) (v : Raw) :
    (s.clockedBy m).convFrame o k v ↔ s.convFrame (m + o) k v := by
  simp only [State.convFrame, State.seen_clockedBy, State.clockedBy_cfg, Nat.add_assoc]

/-! ### Data pulses -/

/-- One data pulse from its rising edge to the next: `data_sync` is sampled `T_HIGH` ticks in (R105, R106). -/
theorem runFor_pulse (s : State) (hv : s.cfg.valid = true) (hb : s.bitCnt.toNat < 24)
    (hr : s.noReset s.cfg.pulseTicks) :
    runFor s.cfg.pulseTicks ((s.pinWrite true).enter .high s.cfg.tHigh) =
      .next ((((s.clockedBy s.cfg.pulseTicks).withAcc (shiftIn s.acc (s.seen (s.cfg.tHigh - 1)))
        (s.bitCnt + 1#5)).pinWrite true).enter (if s.bitCnt.toNat + 1 < 24 then .high else .cselHigh) s.cfg.tHigh) := by
  obtain ⟨-, hH, hL, -, -⟩ := Config.ticks_of_valid hv
  have hhigh : runFor s.cfg.tHigh ((s.pinWrite true).enter .high s.cfg.tHigh) =
      .next ((((s.clockedBy s.cfg.tHigh).withAcc (shiftIn s.acc (s.seen (s.cfg.tHigh - 1)))
        (s.bitCnt + 1#5)).pinWrite false).enter .low s.cfg.tLow) := by
    rw [runFor_entered (s.pinWrite true) .high s.cfg.tHigh (by simpa using hv) rfl s.cfg.one_le_tHigh hH
      (by simpa using State.noReset_mono hr (by simp [Config.pulseTicks]))]
    simp [row, State.timed, highExit]
  rw [Config.pulseTicks] at hr ⊢
  have hb1 : (s.bitCnt + 1#5).toNat = s.bitCnt.toNat + 1 := by simp [BitVec.toNat_add]; omega
  rw [runFor_add s.cfg.tLow hhigh, runFor_entered
    (((s.clockedBy s.cfg.tHigh).withAcc (shiftIn s.acc (s.seen (s.cfg.tHigh - 1))) (s.bitCnt + 1#5)).pinWrite false)
    .low s.cfg.tLow (by simpa using hv) rfl s.cfg.one_le_tLow hL (by simpa using State.noReset_clockedBy hr)]
  simp only [row, State.timed, State.enter_fsm, State.enter_timer, lowExit, if_pos, State.enter_bitCnt,
    State.clockedBy_bitCnt, State.pinWrite_bitCnt, State.withAcc_bitCnt, hb1]
  by_cases h : s.bitCnt.toNat + 1 < 24
  · simp [h, State.clockedBy_add]
  · simp [State.clockedBy_add, show s.bitCnt.toNat + 1 = 24 by omega]

/-- The sample of a frame, bit by bit: shifting bit `23 − j` in after the top `j` bits gives the top `j + 1` (R110). -/
theorem shiftIn_top (v : Raw) (j : Nat) (h : j < 24) :
    shiftIn (v >>> (24 - j)) (v.getLsbD (23 - j)) = v >>> (24 - (j + 1)) := by
  apply BitVec.eq_of_getLsbD_eq
  intro i hi
  cases i with
  | zero => rw [shiftIn_getLsbD_zero, BitVec.getLsbD_ushiftRight]; congr 1; omega
  | succ i =>
    rw [shiftIn_getLsbD_succ _ _ _ (by omega), BitVec.getLsbD_ushiftRight, BitVec.getLsbD_ushiftRight]
    congr 1; omega

/-- The state `n` data pulses after the first rising edge of a frame that samples `v`. -/
def afterPulses (s : State) (v : Raw) (n : Nat) : State :=
  (((s.clockedBy (n * s.cfg.pulseTicks)).withAcc (v >>> (24 - n)) (BitVec.ofNat 5 n)).pinWrite true).enter
    (if n < 24 then .high else .cselHigh) s.cfg.tHigh

/-- Data pulses of a frame from its first rising edge: the samples are the top bits of `v` (R105, R106, R110). -/
theorem runFor_pulses (s : State) (v : Raw) (hv : s.cfg.valid = true) (n : Nat) (hn : n ≤ 24)
    (hr : s.noReset (n * s.cfg.pulseTicks))
    (hs : ∀ i < n, s.seen (s.cfg.tHigh - 1 + i * s.cfg.pulseTicks) = v.getLsbD (23 - i)) :
    runFor (n * s.cfg.pulseTicks) (afterPulses s v 0) = .next (afterPulses s v n) := by
  induction n with
  | zero => simp
  | succ n ih =>
    have hbn : (BitVec.ofNat 5 n).toNat = n := by rw [BitVec.toNat_ofNat]; omega
    have ih := ih (by omega) (State.noReset_mono hr (Nat.mul_le_mul_right _ (by omega))) (fun i hi => hs i (by omega))
    have hseen : s.seen (n * s.cfg.pulseTicks + (s.cfg.tHigh - 1)) = v.getLsbD (23 - n) := by
      rw [← hs n (by omega), Nat.add_comm]
    have hpulse := runFor_pulse ((s.clockedBy (n * s.cfg.pulseTicks)).withAcc (v >>> (24 - n)) (BitVec.ofNat 5 n))
      (by simpa using hv)
      (by simp only [State.withAcc_bitCnt, hbn]; omega)
      (by simpa using State.noReset_clockedBy (s := s) (m := n * s.cfg.pulseTicks) (by rwa [Nat.succ_mul] at hr))
    simp only [State.withAcc_cfg, State.clockedBy_cfg, State.withAcc_seen, State.seen_clockedBy, hseen, State.withAcc_acc,
      State.withAcc_bitCnt, hbn, shiftIn_top v n (by omega), State.withAcc_clockedBy, State.clockedBy_add,
      State.withAcc_withAcc, ← BitVec.ofNat_add] at hpulse
    rw [Nat.succ_mul, runFor_add _ ih]
    simpa [afterPulses, show n < 24 by omega, Nat.succ_mul] using hpulse

/-! ### The ready-wait -/

/-- POLLCNT after `k` high polls: counted only where there is a timeout (R31). -/
def pollCntAfter (s : State) (k : Nat) : BitVec 32 :=
  if s.cfg.readyTimeoutPolls = none then s.pollCnt else s.pollCnt + BitVec.ofNat 32 k

/-- One high poll and its hold (R103, R104). -/
theorem runFor_highPoll (s : State) (hv : s.cfg.valid = true) (hf : s.fsm = .wait) (hs : s.seen 0 = true)
    (ha : ∀ b, s.cfg.readyTimeoutPolls = some b → s.pollCnt.toNat + 1 < b) (hr : s.noReset (1 + s.cfg.tPoll)) :
    runFor (1 + s.cfg.tPoll) s =
      .next ((((s.clockedBy (1 + s.cfg.tPoll)).withPollCnt (pollCntAfter s 1)).enter .wait 1)) := by
  obtain ⟨hP, -, -, -, -⟩ := Config.ticks_of_valid hv
  have h1 : runFor 1 s = .next ((s.clocked.withPollCnt (pollCntAfter s 1)).enter .pollHold s.cfg.tPoll) := by
    rw [runFor_one, step_row s hv (hr 0 (by omega))]
    simp only [row, State.clocked_fsm, hf, hs, poll, pollHigh, if_true, State.clocked_cfg, State.clocked_pollCnt]
    cases hk : s.cfg.readyTimeoutPolls with
    | none =>
      have : pollCntAfter s 1 = s.clocked.pollCnt := by simp [pollCntAfter, hk]
      rw [this]; rfl
    | some k => simp [pollCntAfter, hk, ha k hk]
  have hr' : s.clocked.noReset s.cfg.tPoll := by
    rw [← State.clockedBy_one]; exact State.noReset_clockedBy hr
  rw [runFor_add s.cfg.tPoll h1, runFor_entered (s.clocked.withPollCnt (pollCntAfter s 1))
    .pollHold s.cfg.tPoll (by simpa using hv) rfl s.cfg.one_le_tPoll hP (by simpa using hr')]
  simp only [row, State.timed, State.enter_fsm, State.enter_timer, if_pos, pollHoldExit, State.withPollCnt_clockedBy,
    State.clocked_clockedBy, Nat.add_comm 1]
  rfl

/-- A state in WAIT is one that has entered it with its TIMER. -/
theorem State.eq_enter_wait (s : State) (hf : s.fsm = .wait) : s = s.enter .wait (s.timer.toNat + 1) := by
  unfold State.enter
  rw [← hf, Nat.add_sub_cancel, BitVec.ofNat_toNat, BitVec.setWidth_eq]

/-- POLLCNT counts the high polls, where it counts at all. -/
theorem pollCntAfter_toNat (s : State) (hv : s.cfg.valid = true) (h0 : s.pollCnt = 0#32) (k b : Nat)
    (hb : s.cfg.readyTimeoutPolls = some b) (hk : k ≤ b) : (pollCntAfter s k).toNat = k := by
  have := Config.timeout_of_valid hv hb
  simp [pollCntAfter, hb, h0]
  omega

/-- The polls before the ready one (R103, R104); what TIMER holds in WAIT is not read. -/
theorem runFor_highPolls (s : State) (hv : s.cfg.valid = true) (hf : s.fsm = .wait) (h0 : s.pollCnt = 0#32) (k : Nat)
    (hs : ∀ j < k, s.seen (s.cfg.pollTicks j) = true) (ha : s.cfg.pollsAllowed k) (hr : s.noReset (s.cfg.pollTicks k)) :
    ∃ w, runFor (s.cfg.pollTicks k) s =
      .next (((s.clockedBy (s.cfg.pollTicks k)).withPollCnt (pollCntAfter s k)).enter .wait w) := by
  induction k with
  | zero =>
    refine ⟨s.timer.toNat + 1, ?_⟩
    have : pollCntAfter s 0 = s.pollCnt := by simp [pollCntAfter]
    rw [this]
    simp only [Config.pollTicks, Nat.zero_mul, runFor_zero, State.clockedBy_zero]
    exact congrArg _ (s.eq_enter_wait hf)
  | succ k ih =>
    have hsucc : s.cfg.pollTicks (k + 1) = s.cfg.pollTicks k + (1 + s.cfg.tPoll) := by
      simp [Config.pollTicks, Nat.succ_mul]
    rw [hsucc] at hr ⊢
    obtain ⟨w, ih⟩ := ih (fun j hj => hs j (by omega)) (fun b hb => by have := ha b hb; omega)
      (State.noReset_mono hr (by omega))
    refine ⟨1, ?_⟩
    have hnext : pollCntAfter (((s.clockedBy (s.cfg.pollTicks k)).withPollCnt (pollCntAfter s k)).enter .wait w) 1 =
        pollCntAfter s (k + 1) := by
      simp only [pollCntAfter, State.enter_cfg, State.withPollCnt_cfg, State.clockedBy_cfg, State.enter_pollCnt,
        State.withPollCnt_pollCnt]
      split
      · rfl
      · rw [BitVec.ofNat_add, BitVec.add_assoc]
    rw [runFor_add _ ih]
    have hone := runFor_highPoll (((s.clockedBy (s.cfg.pollTicks k)).withPollCnt (pollCntAfter s k)).enter .wait w)
      (by simpa using hv) rfl
      (by simpa [State.seen_clockedBy] using hs k (by omega))
      (by
        intro b hb
        have hb' : s.cfg.readyTimeoutPolls = some b := by simpa using hb
        have := ha b hb'
        simp only [State.enter_pollCnt, State.withPollCnt_pollCnt]
        rw [pollCntAfter_toNat s hv h0 k b hb' (by omega)]
        omega)
      (by simpa using State.noReset_clockedBy hr)
    rw [hnext] at hone
    refine hone.trans ?_
    simp [State.clockedBy_add]

/-- The poll that reads low starts the frame's first data pulse at the same edge (R103, R105). -/
theorem runFor_readyPoll (s : State) (hv : s.cfg.valid = true) (hf : s.fsm = .wait) (hs : s.seen 0 = false)
    (hr : s.noReset 1) :
    runFor 1 s = .next (((s.clocked.withAcc 0#24 0#5).pinWrite true).enter .high s.cfg.tHigh) := by
  rw [runFor_one, step_row s hv (hr 0 (by omega))]
  simp [row, hf, hs, poll, pollLow]

/-! ### The whole frame -/

/-- From its first rising edge a frame runs to its completion action (R105 to R108). -/
theorem runFor_fromReady (s : State) (v : Raw) (hv : s.cfg.valid = true) (hr : s.noReset (25 * s.cfg.pulseTicks))
    (hs : ∀ i < 24, s.seen (s.cfg.tHigh - 1 + i * s.cfg.pulseTicks) = v.getLsbD (23 - i)) :
    runFor (25 * s.cfg.pulseTicks) (((s.withAcc 0#24 0#5).pinWrite true).enter .high s.cfg.tHigh) =
    frameComplete ((((s.clockedBy (25 * s.cfg.pulseTicks)).withAcc v 24#5).pinWrite false).enter .cselLow 1) := by
  obtain ⟨-, hH, hL, -, -⟩ := Config.ticks_of_valid hv
  have h0 : afterPulses s v 0 = ((s.withAcc 0#24 0#5).pinWrite true).enter .high s.cfg.tHigh := by
    have : v >>> 24 = 0#24 := by
      apply BitVec.eq_of_toNat_eq
      have := v.isLt
      rw [BitVec.toNat_ushiftRight, Nat.shiftRight_eq_div_pow]
      exact Nat.div_eq_of_lt this
    simp [afterPulses, this]
  have h24 : afterPulses s v 24 =
      (((s.clockedBy (24 * s.cfg.pulseTicks)).withAcc v 24#5).pinWrite true).enter .cselHigh s.cfg.tHigh := by
    simp [afterPulses]
  have hdata := runFor_pulses s v hv 24 (by omega) (State.noReset_mono hr (by omega)) hs
  rw [h0, h24] at hdata
  rw [show 25 * s.cfg.pulseTicks = 24 * s.cfg.pulseTicks + s.cfg.tHigh + s.cfg.tLow by simp [Config.pulseTicks]; omega] at hr ⊢
  have hcsel : runFor s.cfg.tHigh
      ((((s.clockedBy (24 * s.cfg.pulseTicks)).withAcc v 24#5).pinWrite true).enter .cselHigh s.cfg.tHigh) =
      .next ((((s.clockedBy (24 * s.cfg.pulseTicks + s.cfg.tHigh)).withAcc v 24#5).pinWrite false).enter .cselLow s.cfg.tLow) := by
    rw [runFor_entered (((s.clockedBy (24 * s.cfg.pulseTicks)).withAcc v 24#5).pinWrite true) .cselHigh s.cfg.tHigh
      (by simpa using hv) rfl s.cfg.one_le_tHigh hH
      (by simpa using State.noReset_clockedBy (s := s) (State.noReset_mono hr (by omega)))]
    simp [row, State.timed, cselHighExit, State.clockedBy_add]
  rw [Nat.add_assoc, runFor_add _ hdata, runFor_add _ hcsel,
    runFor_entered (((s.clockedBy (24 * s.cfg.pulseTicks + s.cfg.tHigh)).withAcc v 24#5).pinWrite false) .cselLow s.cfg.tLow
      (by simpa using hv) rfl s.cfg.one_le_tLow hL (by simpa using State.noReset_clockedBy hr)]
  simp [row, State.timed, State.clockedBy_add, Nat.add_assoc]

/-- What the completion action of a frame finds: the sample in ACC, and every register a frame does not write as it was
at the frame's start. -/
def frameEnd (s : State) (k : Nat) (v : Raw) : State :=
  ((((s.clockedBy (s.cfg.frameTicks k)).withPollCnt (pollCntAfter s k)).withAcc v 24#5).pinWrite false).enter .cselLow 1

/-- THE FRAME: entered at WAIT with POLLCNT 0, answered by the converter with `k` high polls and the sample `v`, it
reaches its completion action after `frameTicks k` ticks with `v` in ACC (R102, R108, R110, R113). -/
theorem runFor_frame (s : State) (k : Nat) (v : Raw) (hv : s.cfg.valid = true) (hf : s.fsm = .wait) (h0 : s.pollCnt = 0#32)
    (hc : s.convFrame 0 k v) (ha : s.cfg.pollsAllowed k) (hr : s.noReset (s.cfg.frameTicks k)) :
    runFor (s.cfg.frameTicks k) s = frameComplete (frameEnd s k v) := by
  obtain ⟨hhigh, hready, hbits⟩ := hc
  simp only [Nat.zero_add] at hhigh hready hbits
  obtain ⟨w, hpolls⟩ := runFor_highPolls s hv hf h0 k hhigh ha (State.noReset_mono hr (by simp [Config.frameTicks]; omega))
  rw [Config.frameTicks] at hr
  have hfirst : runFor (s.cfg.pollTicks k + 1) s =
      .next (((((s.clockedBy (s.cfg.pollTicks k + 1)).withPollCnt (pollCntAfter s k)).withAcc 0#24 0#5).pinWrite true).enter
        .high s.cfg.tHigh) := by
    rw [runFor_add 1 hpolls, runFor_readyPoll _ (by simpa using hv) rfl (by simpa [State.seen_clockedBy] using hready)
      (by simpa using State.noReset_clockedBy (s := s) (State.noReset_mono hr (by omega)))]
    simp [State.clockedBy_succ]
  rw [Config.frameTicks, runFor_add _ hfirst]
  have hrest := runFor_fromReady ((s.clockedBy (s.cfg.pollTicks k + 1)).withPollCnt (pollCntAfter s k)) v (by simpa using hv)
    (by simpa using State.noReset_clockedBy hr)
    (by
      intro i hi
      have := s.cfg.one_le_tHigh
      rw [State.withPollCnt_seen, State.seen_clockedBy, ← hbits i hi]
      congr 1
      simp
      omega)
  refine hrest.trans ?_
  simp [frameEnd, Config.frameTicks, State.clockedBy_add]

end Sys2Proof.Machine
end

