-- ==== Sys2Proof/Laws/PerInstr.lean ====
section
/-! SUPPORT. Statements about every command as syntax, one lemma per constructor of Instr. -/

namespace Sys2Proof.Laws.EncodeLegal

/-- The word of the command is legal by R74's own three grounds, which are written without the decoder. -/
def Statement (i : Instr) : Prop := Word.legal (encode i) = true

theorem init : Statement .init := by unfold Statement; decide

theorem tare : Statement .tare := by unfold Statement; decide

theorem readRaw : Statement .readRaw := by unfold Statement; decide

theorem getWeight : Statement .getWeight := by unfold Statement; decide

theorem decode (m : Raw) : Statement (.decode m) := by
  have h : (encode (.decode m)).toNat = 256 * m.toNat + 5 := encode_toNat (.decode m)
  have h5 : (256 * m.toNat + 5) % 8 = 5 := by omega
  have h0 : (256 * m.toNat + 5) / 8 % 32 = 0 := by omega
  simp [Statement, Word.legal, Word.hasReservedCode, Word.hasReservedBits, Word.hasStrayOperand, h, h5, h0]

end Sys2Proof.Laws.EncodeLegal
end

