-- ==== Sys2Proof/Laws/Step.lean ====
section
/-! SUPPORT. Everything a step that goes on can do, once: the rows of R112's table and of R100 as cases of one relation. -/

namespace Sys2Proof.Machine

/-- `Row p d s t`: with the ports at `p` and `data_sync` at `d`, the row of R112 that `s` matches leads to `t`. -/
inductive Row (p : PortIn) (d : Bool) (s : State) : State → Prop where
  /-- IDLE, nothing offered -/
  | idle (hf : s.fsm = .idle) (ho : p.cmdValid = false) : Row p d s s
  /-- IDLE, an illegal word (R202) -/
  | illegal (why : IllegalWord) (hf : s.fsm = .idle) (ho : p.cmdValid = true) (hd : decodeCmd p.cmd = .illegal why) :
      Row p d s { s with done := false, err := 1#3, fsm := .idle }
  /-- IDLE, INIT (R100) -/
  | init (hf : s.fsm = .idle) (ho : p.cmdValid = true) (hd : decodeCmd p.cmd = .cmd .init) :
      Row p d s { s with done := false, err := 0#3, op := .init, initDone := false, fsm := .settle,
                         timer := BitVec.ofNat 32 (s.cfg.tSettle - 1) }
  /-- IDLE, DECODE (R143) -/
  | decode (m : Raw) (hf : s.fsm = .idle) (ho : p.cmdValid = true) (hd : decodeCmd p.cmd = .cmd (.decode m)) :
      Row p d s { s with done := true, err := 0#3, result := bits64 (decode24 m) }
  /-- IDLE, a reading command before a completed INIT (R203) -/
  | notInit (i : Instr) (hf : s.fsm = .idle) (ho : p.cmdValid = true) (hd : decodeCmd p.cmd = .cmd i)
      (hi : i = .tare ∨ i = .readRaw ∨ i = .getWeight) (hs : s.initDone = false) :
      Row p d s { s with done := false, err := 2#3, fsm := .idle }
  /-- IDLE, TARE (R100) -/
  | tare (hf : s.fsm = .idle) (ho : p.cmdValid = true) (hd : decodeCmd p.cmd = .cmd .tare) (hs : s.initDone = true) :
      Row p d s { s with done := false, err := 0#3, op := .tare, pollCnt := 0#32, fsm := .wait, tCount := 0#16, tSum := 0#64 }
  /-- IDLE, READ_RAW (R100) -/
  | readRaw (hf : s.fsm = .idle) (ho : p.cmdValid = true) (hd : decodeCmd p.cmd = .cmd .readRaw) (hs : s.initDone = true) :
      Row p d s { s with done := false, err := 0#3, op := .readRaw, pollCnt := 0#32, fsm := .wait }
  /-- IDLE, GET_WEIGHT (R100) -/
  | getWeight (hf : s.fsm = .idle) (ho : p.cmdValid = true) (hd : decodeCmd p.cmd = .cmd .getWeight)
      (hs : s.initDone = true) :
      Row p d s { s with done := false, err := 0#3, op := .getWeight, pollCnt := 0#32, fsm := .wait }
  /-- a timed phase, not at its end (R30) -/
  | countdown (hf : s.fsm.isTimed = true) (ht : s.timer ≠ 0#32) : Row p d s { s with timer := s.timer - 1#32 }
  /-- the settle ends (R101) -/
  | settled (hf : s.fsm = .settle) (ht : s.timer = 0#32) : Row p d s { s with initDone := true, done := true, fsm := .idle }
  /-- a low poll (R103, R105) -/
  | ready (hf : s.fsm = .wait) (hd : d = false) :
      Row p d s { s with acc := 0#24, bitCnt := 0#5, clockPin := true, fsm := .high,
                         timer := BitVec.ofNat 32 (s.cfg.tHigh - 1) }
  /-- a high poll, without a timeout (R103) -/
  | pollFree (hf : s.fsm = .wait) (hd : d = true) (hk : s.cfg.readyTimeoutPolls = none) :
      Row p d s { s with fsm := .pollHold, timer := BitVec.ofNat 32 (s.cfg.tPoll - 1) }
  /-- a high poll before the last allowed (R104) -/
  | pollCounted (k : Nat) (hf : s.fsm = .wait) (hd : d = true) (hk : s.cfg.readyTimeoutPolls = some k)
      (hc : s.pollCnt.toNat + 1 < k) :
      Row p d s { s with pollCnt := s.pollCnt + 1#32, fsm := .pollHold, timer := BitVec.ofNat 32 (s.cfg.tPoll - 1) }
  /-- the last high poll allowed (R104) -/
  | timeout (k : Nat) (hf : s.fsm = .wait) (hd : d = true) (hk : s.cfg.readyTimeoutPolls = some k)
      (hc : s.pollCnt.toNat + 1 = k) : Row p d s { s with err := 3#3, fsm := .idle }
  /-- the hold between polls ends (R103) -/
  | pollAgain (hf : s.fsm = .pollHold) (ht : s.timer = 0#32) : Row p d s { s with fsm := .wait }
  /-- a data pulse falls (R106) -/
  | sample (hf : s.fsm = .high) (ht : s.timer = 0#32) :
      Row p d s { s with acc := shiftIn s.acc d, bitCnt := s.bitCnt + 1#5, clockPin := false, fsm := .low,
                         timer := BitVec.ofNat 32 (s.cfg.tLow - 1) }
  /-- the next data pulse rises (R105) -/
  | nextPulse (hf : s.fsm = .low) (ht : s.timer = 0#32) (hb : s.bitCnt.toNat < 24) :
      Row p d s { s with clockPin := true, fsm := .high, timer := BitVec.ofNat 32 (s.cfg.tHigh - 1) }
  /-- the channel-select pulse rises (R107) -/
  | channelSelect (hf : s.fsm = .low) (ht : s.timer = 0#32) (hb : s.bitCnt.toNat = 24) :
      Row p d s { s with clockPin := true, fsm := .cselHigh, timer := BitVec.ofNat 32 (s.cfg.tHigh - 1) }
  /-- the channel-select pulse falls (R107) -/
  | channelSelected (hf : s.fsm = .cselHigh) (ht : s.timer = 0#32) :
      Row p d s { s with clockPin := false, fsm := .cselLow, timer := BitVec.ofNat 32 (s.cfg.tLow - 1) }
  /-- READ_RAW completes (R111) -/
  | readRawDone (hf : s.fsm = .cselLow) (ht : s.timer = 0#32) (ho : s.op = .readRaw) :
      Row p d s { s with raw := s.acc, result := bits64 (decode24 s.acc), done := true, fsm := .idle }
  /-- GET_WEIGHT completes (R165) -/
  | getWeightDone (hf : s.fsm = .cselLow) (ht : s.timer = 0#32) (ho : s.op = .getWeight) :
      Row p d s { s with raw := s.acc, result := mask16 (weightDiff s.acc s.tareOffset), done := true, fsm := .idle }
  /-- a frame of a TARE completes, not the last (R160) -/
  | tareFrame (hf : s.fsm = .cselLow) (ht : s.timer = 0#32) (ho : s.op = .tare) (hc : s.tCount.toNat + 1 < s.cfg.nTare) :
      Row p d s { s with tSum := bits64 (tareSum s.tSum s.acc), tCount := s.tCount + 1#16, fsm := .rest,
                         timer := BitVec.ofNat 32 (s.cfg.tRest - 1) }
  /-- TARE completes (R160, R162) -/
  | tareDone (hf : s.fsm = .cselLow) (ht : s.timer = 0#32) (ho : s.op = .tare) (hc : s.cfg.nTare ≤ s.tCount.toNat + 1) :
      Row p d s { s with tSum := bits64 (tareSum s.tSum s.acc), tCount := s.tCount + 1#16,
                         tareOffset := tareMean (tareSum s.tSum s.acc) s.cfg.nTare, raw := s.acc, done := true, fsm := .idle }
  /-- the rest ends (R161) -/
  | rested (hf : s.fsm = .rest) (ht : s.timer = 0#32) : Row p d s { s with pollCnt := 0#32, fsm := .wait }

/-- What an acceptance does is one of the IDLE rows. -/
theorem accept_cases {p : PortIn} {d : Bool} {s t : State} (hf : s.fsm = .idle) (ho : p.cmdValid = true)
    (h : accept p.cmd s = .next t) : Row p d s t := by
  unfold accept at h
  split at h
  · rename_i i hd
    cases i with
    | init =>
      injection h with h
      exact h ▸ .init hf ho hd
    | decode m =>
      injection h with h
      exact h ▸ .decode m hf ho hd
    | tare =>
      injection h with h
      cases hs : s.initDone
      · simp only [hs, Bool.false_eq_true, if_false] at h
        exact h ▸ .notInit _ hf ho hd (.inl rfl) hs
      · simp only [hs, if_true] at h
        exact h ▸ .tare hf ho hd hs
    | readRaw =>
      injection h with h
      cases hs : s.initDone
      · simp only [hs, Bool.false_eq_true, if_false] at h
        exact h ▸ .notInit _ hf ho hd (.inr (.inl rfl)) hs
      · simp only [hs, if_true] at h
        exact h ▸ .readRaw hf ho hd hs
    | getWeight =>
      injection h with h
      cases hs : s.initDone
      · simp only [hs, Bool.false_eq_true, if_false] at h
        exact h ▸ .notInit _ hf ho hd (.inr (.inr rfl)) hs
      · simp only [hs, if_true] at h
        exact h ▸ .getWeight hf ho hd hs
  · rename_i why hd
    injection h with h
    exact h ▸ .illegal why hf ho hd

/-- Only the rows of `Row` lead to a next state. -/
theorem row_cases {p : PortIn} {d : Bool} {s t : State} (h : row p d s = .next t) : Row p d s t := by
  unfold row at h
  have count {e : State → Answer} (hf : s.fsm.isTimed = true) (h : s.timed e = .next t) :
      s.timer = 0#32 ∧ e s = .next t ∨ Row p d s t := by
    unfold State.timed at h
    split at h
    · exact .inl ⟨‹_›, h⟩
    · injection h with h
      exact .inr (h ▸ .countdown hf ‹_›)
  split at h <;> rename_i hf
  · split at h
    · exact accept_cases hf ‹_› h
    · injection h with h
      exact h ▸ .idle hf (Bool.eq_false_iff.2 ‹_›)
  · rcases count (by rw [hf]; rfl) h with ⟨ht, h⟩ | h
    · injection h with h
      exact h ▸ .settled hf ht
    · exact h
  · cases hd : d
    · simp only [hd, poll, Bool.false_eq_true, if_false, pollLow] at h
      injection h with h
      exact h ▸ .ready hf rfl
    · simp only [hd, poll, if_true, pollHigh] at h
      split at h
      · injection h with h
        exact h ▸ .pollFree hf rfl ‹_›
      · split at h
        · injection h with h
          exact h ▸ .pollCounted _ hf rfl ‹_› ‹_›
        · split at h
          · injection h with h
            exact h ▸ .timeout _ hf rfl ‹_› ‹_›
          · cases h
  · rcases count (by rw [hf]; rfl) h with ⟨ht, h⟩ | h
    · injection h with h
      exact h ▸ .pollAgain hf ht
    · exact h
  · rcases count (by rw [hf]; rfl) h with ⟨ht, h⟩ | h
    · injection h with h
      exact h ▸ .sample hf ht
    · exact h
  · rcases count (by rw [hf]; rfl) h with ⟨ht, h⟩ | h
    · unfold lowExit at h
      split at h
      · injection h with h
        exact h ▸ .nextPulse hf ht ‹_›
      · split at h
        · injection h with h
          exact h ▸ .channelSelect hf ht ‹_›
        · cases h
    · exact h
  · rcases count (by rw [hf]; rfl) h with ⟨ht, h⟩ | h
    · injection h with h
      exact h ▸ .channelSelected hf ht
    · exact h
  · rcases count (by rw [hf]; rfl) h with ⟨ht, h⟩ | h
    · unfold frameComplete at h
      split at h <;> rename_i ho
      · injection h with h
        exact h ▸ .readRawDone hf ht ho
      · injection h with h
        exact h ▸ .getWeightDone hf ht ho
      · unfold completeTareFrame at h
        simp only at h
        split at h
        · injection h with h
          exact h ▸ .tareFrame hf ht ho ‹_›
        · injection h with h
          exact h ▸ .tareDone hf ht ho (by omega)
      · cases h
      · cases h
    · exact h
  · rcases count (by rw [hf]; rfl) h with ⟨ht, h⟩ | h
    · injection h with h
      exact h ▸ .rested hf ht
    · exact h

/-- THE STEP: one that goes on is a reset, or a row over the state whose environment and synchroniser have moved on. -/
theorem step_cases {s t : State} (h : step s = .next t) :
    s.cfg.valid = true ∧
      ((s.portAt 0).rst = true ∧ t = s.resetEdge ∨
        (s.portAt 0).rst = false ∧ Row (s.portAt 0) (s.seen 0) s.clocked t) := by
  obtain ⟨hv, h | ⟨hr, h⟩⟩ := step_next_cases h
  · exact ⟨hv, .inl h⟩
  · exact ⟨hv, .inr ⟨hr, row_cases h⟩⟩

end Sys2Proof.Machine
end

