-- ==== Sys2Proof/Tests/Slice0.lean ====
section
/-! SUPPORT. Tests against the worked vectors of 95_test_vectors.md, and a witness for every obligation with hypotheses. -/

namespace Sys2Proof.Tests

open Sys2Proof Sys2Proof.Machine

/-! ### Well-formedness: what the checks refuse -/

/-- R76: the largest operand is well formed, the next number is not. -/
theorem test_operand_range :
    (AsmCmd.decode 0xFFFFFF).wellFormed = true ∧ (AsmCmd.decode 0x1000000).wellFormed = false := by decide

/-- R76: an operand out of range does not assemble. -/
theorem test_operand_refused : assemble (.decode 0x1000000) = .error .operandOutOfRange := by rfl

/-- R74 (a), E-8, E-9: the reserved codes. -/
theorem test_reserved_code :
    [0x0#32, 0x6#32, 0x7#32].all (fun w => Word.hasReservedCode w && !Word.legal w) = true := by rfl

/-- R74 (b), E-11, E-12: reserved bits set. -/
theorem test_reserved_bits :
    [0x9#32, 0xD#32, 0x85#32].all (fun w => Word.hasReservedBits w && !Word.legal w) = true := by rfl

/-- R74 (c), E-13, E-14: an operand where there is none. -/
theorem test_stray_operand :
    [0x103#32, 0xFFFFFF01#32, 0x80000004#32].all (fun w => Word.hasStrayOperand w && !Word.legal w) = true := by rfl

/-- R6, R8: a configuration that breaks each check, and one that meets them all. -/
theorem test_configurations :
    (Config.defaults 0).inDomain = false ∧
    { Config.timing4M with nTare := 0 }.tareCountOk = false ∧ { Config.timing4M with nTare := 65536 }.tareCountOk = false ∧
    { Config.timing4M with tSettleMs := ⟨499, 10⟩ }.settleOk = false ∧
    { Config.timing4M with tRestMs := .whole 1073742 }.ticksFit = false ∧
    { Config.timing4M with syncStages := 4 }.syncFits = false ∧
    { Config.timing4M with tDvUs := some ⟨51, 100⟩ }.dataValidOk = false ∧
    { Config.timing4M with tPdUs := some ⟨1, 1⟩ }.powerDownOk = false ∧
    { Config.timing4M with syncStages := 3, tDvUs := some ⟨1, 4⟩, tPdUs := some ⟨101, 100⟩, nTare := 65535 }.valid = true := by
  decide

/-! ### Decoding: words written out from R71 and R72, `IMM24 RSV OPC` -/

theorem test_decode_init : decodeCmd 0b000000000000000000000000_00000_001#32 = .cmd .init := by decide

theorem test_decode_tare : decodeCmd 0b000000000000000000000000_00000_010#32 = .cmd .tare := by decide

theorem test_decode_readRaw : decodeCmd 0b000000000000000000000000_00000_011#32 = .cmd .readRaw := by decide

theorem test_decode_getWeight : decodeCmd 0b000000000000000000000000_00000_100#32 = .cmd .getWeight := by decide

/-- E-6: the operand `0x123456`. -/
theorem test_decode_decode : decodeCmd 0b000100100011010001010110_00000_101#32 = .cmd (.decode 0x123456) := by decide

/-- E-8 to E-14, each with its ground. -/
theorem test_decode_illegal :
    [0x0#32, 0x6#32, 0x7#32, 0x8#32, 0x9#32, 0xD#32, 0x103#32, 0xFFFFFF01#32].map decodeCmd =
      [.illegal .reservedCode, .illegal .reservedCode, .illegal .reservedCode, .illegal .reservedBits, .illegal .reservedBits,
        .illegal .reservedBits, .illegal .strayOperand, .illegal .strayOperand] := by decide

/-- R71: the words of E-2 and E-6 back from their commands. -/
theorem test_encode : encode .tare = 0x2#32 ∧ encode (.decode 0x123456) = 0x12345605#32 := by decide

/-- R76: a line with a comment, in hexadecimal and in decimal. -/
theorem test_assembleLine :
    assembleLine "DECODE 0x800000 ; sign bit".toList = .ok 0x80000005#32 ∧
    assembleLine "DECODE 256".toList = .ok 0x10005#32 ∧ assembleLine "GET_WEIGHT".toList = .ok 0x4#32 ∧
    assembleLine "DECODE 0x1000000".toList = .error .operandOutOfRange ∧
    assembleLine "READ_RAW 1".toList = .error .notACommand := ⟨rfl, rfl, rfl, rfl, rfl⟩

/-! ### Arithmetic -/

/-- L1-2: the sign decoder's worked values. -/
theorem test_decode24 : decode24 0x800000 = -8388608 ∧ decode24 0xFFFFFF = -1 ∧ decode24 0x000001 = 1 ∧
    decode24 0xABCDEF = -5517841 := by decide

/-- T-3, T-4, T-5, T-6: the quotient is truncated toward zero. -/
theorem test_quot : quot 1045 10 = 104 ∧ quot (-15) 10 = -1 ∧ quot (-55) 10 = -5 ∧ quot (-1) 10 = 0 := by decide

/-- W-1, W-3, W-8, W-11: the mask keeps 16 bits and extends with zeros. -/
theorem test_mask16 : mask16 0x12345 = 0x2345#64 ∧ mask16 (-256) = 0xFF00#64 ∧ mask16 32768 = 0x8000#64 ∧
    mask16 (-16777215) = 1#64 := by decide

/-! ### Small states -/

/-- A configuration with one-tick holds, 50 ticks of settle, 10 of rest, no synchroniser, two frames a TARE. -/
def tiny : Config := { Config.defaults 1000 with syncStages := 0, nTare := 2, tSettleMs := .whole 50 }

/-- `tiny` with a timeout of two polls. -/
def tinyTimeout : Config := { tiny with readyTimeoutPolls := some 2 }

/-- An edge with nothing offered and `data_pin` at a level. -/
def pin (level : Bool) : PortIn := ⟨false, false, 0#32, level⟩

/-- An edge at which a word is offered. -/
def offer (w : Word) : PortIn := ⟨false, true, w, false⟩

/-- An edge with reset, and a command offered beside it. -/
def resetPin : PortIn := ⟨true, true, 0x105#32, true⟩

/-- The state after a completed INIT, with the coming edges. -/
def settledState (c : Config) (edges : List PortIn) : State :=
  { State.resetWith c with initDone := true, done := true, edges := edges }

/-- A state in a phase with TIMER 0, as a READ_RAW reaches it. -/
def phaseState (c : Config) (f : FSM) (edges : List PortIn) : State :=
  { settledState c edges with done := false, op := .readRaw, fsm := f }

/-- The pin levels of a frame under `tiny` that is ready at once and shows `v`. -/
def answer (v : Raw) : List PortIn :=
  [pin false] ++ (List.range 24).flatMap (fun i => [pin (v.getLsbD (23 - i)), pin true]) ++ [pin true, pin true]

/-- Ten ticks of rest. -/
def resting : List PortIn := List.replicate 10 (pin true)

/-- The status word a step leaves, if it goes on. -/
def statusAfter (s : State) : Option (BitVec 32) :=
  match step s with
  | .next t => some t.status
  | .fault _ | .refused _ => none

/-! ### One step of each command -/

/-- INIT after reset: busy in SETTLE, with TIMER at T_SETTLE − 1 (R100; 4M has T_SETTLE 400000). -/
theorem test_init_accept :
    step (State.reset.withFetchWord 32 0x1) = .next { (State.reset.withFetchWord 32 0x1).clocked with
      op := .init, fsm := .settle, timer := 399999#32 } := by rfl

/-- The edge that ends the settle leaves status 0x06 (R101). -/
theorem test_init_completes :
    statusAfter { State.resetWith tiny with fsm := .settle, op := .init, edges := [pin true] } = some 0x6#32 := by decide

/-- D-13: DECODE 0x800000 just after reset: status 0x04, RESULT sign-extended, nothing else. -/
theorem test_decode_after_reset :
    step (State.reset.withFetchWord 32 0x80000005) = .next { (State.reset.withFetchWord 32 0x80000005).clocked with
      done := true, result := 0xFFFFFFFFFF800000#64 } := by rfl

/-- X-8: every acceptance clears ERR first. -/
theorem test_decode_clears_err :
    statusAfter { State.resetWith tiny with err := 2#3, edges := [offer 0x5#32] } = some 0x4#32 := by decide

/-- X-1: READ_RAW before INIT raises NOT_INIT: status 0x10. -/
theorem test_readRaw_notInit : statusAfter (State.reset.withFetchWord 32 0x3) = some 0x10#32 := by decide

/-- R-3: the completion edge of a READ_RAW that sampled 0x800000. -/
theorem test_readRaw_completes :
    step { phaseState tiny .cselLow [pin true] with acc := 0x800000#24 } =
      .next { { phaseState tiny .cselLow [pin true] with acc := 0x800000#24 }.clocked with
        raw := 0x800000#24, result := 0xFFFFFFFFFF800000#64, done := true, fsm := .idle } := by rfl

/-- X-3: GET_WEIGHT before INIT. -/
theorem test_getWeight_notInit : statusAfter (State.reset.withFetchWord 32 0x4) = some 0x10#32 := by decide

/-- W-4: offset −1 and sample 0xFFFFF0 leave RESULT 0xFFF1. -/
theorem test_getWeight_completes :
    step { phaseState tiny .cselLow [pin true] with op := .getWeight, acc := 0xFFFFF0#24, tareOffset := 0xFFFFFFFFFFFFFFFF#64 } =
      .next { { phaseState tiny .cselLow [pin true] with
          op := .getWeight, acc := 0xFFFFF0#24, tareOffset := 0xFFFFFFFFFFFFFFFF#64 }.clocked with
        raw := 0xFFFFF0#24, result := 0xFFF1#64, done := true, fsm := .idle } := by rfl

/-- X-2: TARE before INIT. -/
theorem test_tare_notInit : statusAfter (State.reset.withFetchWord 32 0x2) = some 0x10#32 := by decide

/-- T-4: the tenth frame of a TARE, after nine readings of −1, reads −6: the mean is −1, not −2. -/
theorem test_tare_completes :
    step { phaseState { tiny with nTare := 10 } .cselLow [pin true] with
        op := .tare, acc := 0xFFFFFA#24, tCount := 9#16, tSum := 0xFFFFFFFFFFFFFFF7#64, result := 0x42#64 } =
      .next { { phaseState { tiny with nTare := 10 } .cselLow [pin true] with
          op := .tare, acc := 0xFFFFFA#24, tCount := 9#16, tSum := 0xFFFFFFFFFFFFFFF7#64, result := 0x42#64 }.clocked with
        tCount := 10#16, tSum := 0xFFFFFFFFFFFFFFF1#64, tareOffset := 0xFFFFFFFFFFFFFFFF#64, raw := 0xFFFFFA#24,
        done := true, fsm := .idle } := by rfl

/-! ### Errors, reset -/

/-- X-4: an illegal word keeps INIT_DONE; X-7: it clears DONE. -/
theorem test_illegal : statusAfter (settledState tiny [offer 0x0#32]) = some 0xA#32 := by decide

/-- X-5: ILLEGAL wins over NOT_INIT. -/
theorem test_illegal_wins : statusAfter (State.reset.withFetchWord 32 0x103) = some 0x8#32 := by decide

/-- O-1: the last poll allowed raises TIMEOUT: status 0x1A. -/
theorem test_timeout :
    statusAfter { phaseState tinyTimeout .wait [pin true] with pollCnt := 1#32 } = some 0x1A#32 := by decide

/-- R205, R208: reset wins over an offer and over a frame. -/
theorem test_reset_wins : step (phaseState tiny .high [resetPin]) = .next { State.resetWith tiny with edgeNo := 1 } := by rfl

/-- R116, R112: a command offered while busy is ignored. -/
theorem test_busy_ignores : step (phaseState tiny .wait [offer 0x1#32]) =
    step (phaseState tiny .wait [pin false]) := by rfl

/-- R8: a refused configuration. -/
theorem test_refused : step (State.resetWith { tiny with syncStages := 1 }) = .refused .badConfig := by rfl

/-! ### Witnesses: a state that meets the hypotheses of each obligation that has some, clause by clause -/

/-- No reset in the coming edges when the list says so. -/
theorem noReset_of_all (s : State) (n : Nat) (h : s.edges.all (fun p => !p.rst) = true) (hn : n ≤ s.edges.length) :
    s.noReset n := by
  intro j hj
  have hlt : j < s.edges.length := by omega
  have := List.all_eq_true.1 h s.edges[j] (List.getElem_mem hlt)
  simpa [State.portAt, List.getD_eq_getElem?_getD, List.getElem?_eq_getElem hlt] using this

/-- Every state right after reset or a completed INIT meets the invariant, whatever is offered next. -/
theorem settledState_inv (c : Config) (edges : List PortIn) (hv : c.valid = true) : (settledState c edges).Inv := by
  have ht := fun k hk => Config.timeout_of_valid hv (k := k) hk
  constructor <;> try simp [settledState, State.resetWith, hv, FSM.inFrame, phaseTicks, signed64]
  intro k hk
  have := ht k hk
  omega

theorem tiny_valid : tiny.valid = true := by decide

theorem tinyTimeout_valid : tinyTimeout.valid = true := by decide

/-- A frame that polls high once, then shows 0xAAAAAA (L1-3), and an edge more. -/
def oneFrame : List PortIn := [pin true, pin true] ++ answer 0xAAAAAA#24 ++ [pin true]

/-- The two frames of a TARE, of samples 0x000005 and 0xFFFFFA, with the rest between them. -/
def twoFrames : List PortIn := answer 0x000005#24 ++ resting ++ answer 0xFFFFFA#24 ++ [pin true]

theorem witness_DecodeExactlyInvertsEncode : decodeCmd 0xFFFFFF05#32 = .cmd (.decode 0xFFFFFF#24) := by decide

theorem witness_OpcodeMapSelectsRows :
    (0x9#32 &&& 0x7#32 ≠ 0x0#32) ∧ 0x0#32 &&& 0x7#32 = 0x0#32 ∧ 0xFE#32 &&& 0x7#32 = 0x6#32 ∧ 0x7#32 &&& 0x7#32 = 0x7#32 := by
  decide

theorem witness_IllegalWordsOnlySetErr :
    ∃ s : State, s.cfg.valid = true ∧ (s.portAt 0).rst = false ∧ (s.portAt 0).cmdValid = true ∧ s.fsm = .idle ∧
      (decodeCmd (s.portAt 0).cmd).toOption = none :=
  ⟨settledState tiny [offer 0x103#32], by decide⟩

theorem witness_AssemblerEmitsCommandWords :
    (AsmCmd.decode 0xFFFFFF).wellFormed = true ∧ 0xFFFFFF ≤ 0xFFFFFF ∧ 0xFFFFFF < 0x1000000 := by decide

theorem witness_TickCountsRoundUp :
    ∃ c : Config, 0 < c.tPollUs.den ∧ 0 < c.tHighUs.den ∧ 0 < c.tLowUs.den ∧ 0 < c.tSettleMs.den ∧ 0 < c.tRestMs.den :=
  ⟨tiny, by decide⟩

/-- Each clause: a configuration out of the domains, and ones in them with both thresholds given, on and past the bound. -/
theorem witness_BadConfigurationsAreRefused :
    (Config.defaults 0).inDomain = false ∧
    { Config.timing4M with tDvUs := some ⟨1, 2⟩, tPdUs := some ⟨101, 100⟩ }.inDomain = true ∧
    { Config.timing4M with tDvUs := some ⟨1, 2⟩, tPdUs := some ⟨101, 100⟩ }.valid = true ∧
    { Config.timing4M with tDvUs := some ⟨1, 2⟩, tPdUs := some ⟨1, 1⟩ }.inDomain = true ∧
    { Config.timing4M with tDvUs := some ⟨1, 2⟩, tPdUs := some ⟨1, 1⟩ }.valid = false := by decide

theorem witness_StepsKeepTheConfiguration : ∃ s t : State, step s = .next t :=
  ⟨settledState tiny [offer 0x1#32], _, rfl⟩

theorem witness_ResetEdgeSetsEveryRegister : ∃ s : State, s.cfg.valid = true ∧ (s.portAt 0).rst = true :=
  ⟨phaseState tiny .high [resetPin], by decide⟩

theorem witness_ResetMeetsTheInvariant : ∃ c : Config, c.valid = true := ⟨tiny, tiny_valid⟩

theorem witness_StepKeepsTheInvariant : ∃ s t : State, s.Inv ∧ step s = .next t :=
  ⟨settledState tiny [offer 0x3#32], _, settledState_inv _ _ tiny_valid, rfl⟩

theorem witness_InvariantStatesAlwaysStep : ∃ s : State, s.Inv :=
  ⟨settledState tiny [offer 0x2#32], settledState_inv _ _ tiny_valid⟩

/-- Both ways of the premise's equivalence: a state with the clock low, one with it high. -/
theorem witness_ClockPinHighExactlyInHighPhases :
    (∃ s t : State, (s.clockPin = true ↔ s.fsm = .high ∨ s.fsm = .cselHigh) ∧ step s = .next t ∧ t.fsm = .high) ∧
    ∃ s t : State, (s.clockPin = true ↔ s.fsm = .high ∨ s.fsm = .cselHigh) ∧ step s = .next t ∧ t.fsm = .low :=
  ⟨⟨phaseState tiny .wait [pin false], _, by decide, rfl, rfl⟩,
    ⟨{ phaseState tiny .high [pin false] with clockPin := true }, _, by decide, rfl, rfl⟩⟩

theorem witness_StepRunsTheDecodedCommand :
    ∃ (s : State) (i : Instr), s.cfg.valid = true ∧ (s.portAt 0).rst = false ∧ (s.portAt 0).cmdValid = true ∧
      s.fsm = .idle ∧ decodeCmd (s.portAt 0).cmd = .cmd i :=
  ⟨settledState tiny [offer 0x80000005#32], .decode 0x800000#24, by decide⟩

/-- An idle state for each clause: nothing offered, an illegal word, and each command, settled and not. -/
theorem witness_AcceptanceFollowsItsRule :
    ((settledState tiny [pin true]).portAt 0).cmdValid = false ∧
    (decodeCmd ((settledState tiny [offer 0x0#32]).portAt 0).cmd).toOption = none ∧
    decodeCmd ((settledState tiny [offer 0x1#32]).portAt 0).cmd = .cmd .init ∧
    decodeCmd ((settledState tiny [offer 0x105#32]).portAt 0).cmd = .cmd (.decode 1#24) ∧
    decodeCmd ((State.resetWith tiny).offering 0x2#32).cmd = .cmd .tare ∧ (State.resetWith tiny).initDone = false ∧
    decodeCmd ((settledState tiny [offer 0x3#32]).portAt 0).cmd = .cmd .readRaw ∧
    decodeCmd ((settledState tiny [offer 0x4#32]).portAt 0).cmd = .cmd .getWeight ∧
    decodeCmd ((settledState tiny [offer 0x2#32]).portAt 0).cmd = .cmd .tare ∧ (settledState tiny []).initDone = true ∧
    (settledState tiny [offer 0x2#32]).cfg.valid = true ∧ (settledState tiny [offer 0x2#32]).fsm = .idle ∧
    ((settledState tiny [offer 0x2#32]).portAt 0).rst = false ∧ (phaseState tiny .wait [offer 0x1#32]).fsm ≠ .idle := by
  decide

theorem witness_UnsettledReadsRaiseNotInit :
    Instr.getWeight ∈ [Instr.tare, Instr.readRaw, Instr.getWeight] ∧ (State.resetWith tiny).fsm = .idle ∧
      (State.resetWith tiny).initDone = false := by decide

theorem witness_InitSettlesForItsTicks :
    ∃ s : State, s.cfg.valid = true ∧ s.fsm = .idle ∧ s.noReset s.cfg.tSettle :=
  ⟨settledState tiny (List.replicate 50 (pin true)), by decide, rfl, noReset_of_all _ _ (by decide) (by decide)⟩

theorem witness_DecodeCommandSignExtends : (State.resetWith tiny).fsm = .idle := rfl

/-- The clause with bounds on `z`, at both ends. -/
theorem witness_SignDecoderForms : decode24 0x800000#24 = -2 ^ 23 ∧ decode24 0x7FFFFF#24 = 2 ^ 23 - 1 := by decide

/-- A state for each row: the phase, TIMER, and what else the row asks of it. -/
theorem witness_TransitionTableRows :
    tiny.valid = true ∧ tinyTimeout.valid = true ∧ ((phaseState tiny .wait [pin false]).portAt 0).rst = false ∧
    ((settledState tiny [pin true]).portAt 0).cmdValid = false ∧ ((settledState tiny [offer 0x1#32]).portAt 0).cmdValid = true ∧
    { phaseState tiny .settle [pin true] with timer := 1#32 }.timer ≠ 0#32 ∧ (phaseState tiny .settle [pin true]).timer = 0#32 ∧
    (phaseState tiny .wait [pin false]).dataSync ((phaseState tiny .wait [pin false]).portAt 0).dataPin = false ∧
    (phaseState tiny .wait [pin true]).dataSync ((phaseState tiny .wait [pin true]).portAt 0).dataPin = true ∧
    tiny.readyTimeoutPolls = none ∧ tinyTimeout.readyTimeoutPolls = some 2 ∧
    (phaseState tinyTimeout .wait [pin true]).pollCnt.toNat + 1 < 2 ∧
    { phaseState tinyTimeout .wait [pin true] with pollCnt := 1#32 }.pollCnt.toNat + 1 = 2 ∧
    { phaseState tiny .low [pin true] with bitCnt := 23#5 }.bitCnt.toNat < 24 ∧
    { phaseState tiny .low [pin true] with bitCnt := 24#5 }.bitCnt.toNat = 24 ∧
    (phaseState tiny .cselLow [pin true]).op = .readRaw ∧
    { phaseState tiny .cselLow [pin true] with op := .tare }.tCount.toNat + 1 < tiny.nTare ∧
    tiny.nTare ≤ { phaseState tiny .cselLow [pin true] with op := .tare, tCount := 1#16 }.tCount.toNat + 1 := by
  decide

/-- A run of three edges through a synchroniser of two, and an edge with reset. -/
theorem witness_SynchroniserDelaysThePin :
    (∃ s t : State, s.sync.length = s.cfg.syncStages ∧ s.cfg.syncStages ≤ 3 ∧ s.noReset 3 ∧ runFor 3 s = .next t) ∧
    ∃ s t : State, (s.portAt 0).rst = true ∧ step s = .next t :=
  ⟨⟨settledState .timing4M [pin true, pin false, pin true, pin true], _, by decide, by decide,
      noReset_of_all _ _ (by decide) (by decide), rfl⟩,
    ⟨phaseState tiny .wait [resetPin], _, by decide, rfl⟩⟩

/-- `oneFrame` is a frame with one high poll and the sample 0xAAAAAA. -/
theorem oneFrame_convFrame (s : State) (hc : s.cfg = tiny ∨ s.cfg = tinyTimeout) (hs : s.sync = []) (he : s.edges = oneFrame)
    (hn : s.edgeNo = 0) :
    s.convFrame 0 1 0xAAAAAA#24 := by
  have hseen : ∀ j, s.seen j = (oneFrame.getD j (Config.portDraw (0 + j))).dataPin := by
    intro j
    simp [State.seen, hs, State.portAt, he, hn]
  unfold State.convFrame
  simp only [hseen]
  rcases hc with hc | hc <;> rw [hc] <;> decide

theorem witness_FrameMakesExactlyItsPinEvents :
    (∃ (s : State) (k : Nat) (v : Raw), s.cfg.valid = true ∧ s.fsm = .wait ∧ s.pollCnt = 0#32 ∧ s.clockPin = false ∧
      s.op.runsFrames = true ∧ s.convFrame 0 k v ∧ s.cfg.pollsAllowed k ∧ s.noReset (s.cfg.frameTicks k)) ∧
    ∃ (s : State) (bound : Nat), s.cfg.valid = true ∧ s.fsm = .wait ∧ s.pollCnt = 0#32 ∧ s.clockPin = false ∧
      s.convTimeout 0 bound ∧ s.noReset (s.cfg.timeoutTicks bound) :=
  ⟨⟨phaseState tinyTimeout .wait oneFrame, 1, 0xAAAAAA#24, by decide, rfl, rfl, rfl, rfl,
      oneFrame_convFrame _ (.inr rfl) rfl rfl rfl, by intro b h; injection h with h; omega,
      noReset_of_all _ _ (by decide) (by decide)⟩,
    ⟨phaseState tinyTimeout .wait [pin true, pin true, pin true], 2, by decide, rfl, rfl, rfl, ⟨rfl, by decide⟩,
      noReset_of_all _ _ (by decide) (by decide)⟩⟩

theorem witness_RawSampleIsMsbFirst :
    ∃ (s : State) (k : Nat), s.cfg.valid = true ∧ s.fsm = .wait ∧ s.pollCnt = 0#32 ∧ s.op.runsFrames = true ∧
      s.cfg.pollsAllowed k ∧ (∀ j < k, s.seen (s.cfg.pollTicks j) = true) ∧ s.seen (s.cfg.pollTicks k) = false ∧
      s.noReset (s.cfg.frameTicks k) ∧ s.op ≠ .tare :=
  ⟨phaseState tinyTimeout .wait oneFrame, 1, by decide, rfl, rfl, rfl, by intro b h; injection h with h; omega, by decide,
    by decide, noReset_of_all _ _ (by decide) (by decide), by decide⟩

/-- With a synchroniser as deep as R8 (4) allows, under 4M's four-tick holds. -/
theorem witness_SampleShowsTheLevelAfterItsRisingEdge :
    ∃ s : State, s.cfg.valid = true ∧ s.sync.length = s.cfg.syncStages ∧ s.fsm = .high ∧
      s.timer = BitVec.ofNat 32 (s.cfg.tHigh - 1) ∧ s.noReset s.cfg.tHigh :=
  ⟨{ phaseState { Config.timing4M with syncStages := 3 } .high (List.replicate 4 (pin true)) with timer := 3#32 },
    by decide, by decide, rfl, by decide, noReset_of_all _ _ (by decide) (by decide)⟩

/-- In both high phases, the second with `T_PD_US` given, just above the hold. -/
theorem witness_ClockHighLastsExactlyTHigh :
    (∃ s : State, s.cfg.valid = true ∧ s.fsm = .high ∧ s.clockPin = true ∧ s.timer = BitVec.ofNat 32 (s.cfg.tHigh - 1) ∧
      s.noReset s.cfg.tHigh) ∧
    ∃ (s : State) (d : Duration), s.cfg.valid = true ∧ s.fsm = .cselHigh ∧ s.clockPin = true ∧
      s.timer = BitVec.ofNat 32 (s.cfg.tHigh - 1) ∧ s.noReset s.cfg.tHigh ∧ s.cfg.tPdUs = some d :=
  ⟨⟨{ phaseState tiny .high [pin true] with clockPin := true }, by decide, rfl, rfl, by decide,
      noReset_of_all _ _ (by decide) (by decide)⟩,
    ⟨{ phaseState { Config.timing4M with tPdUs := some ⟨101, 100⟩ } .cselHigh (List.replicate 4 (pin true)) with
        timer := 3#32, clockPin := true }, ⟨101, 100⟩, by decide, rfl, rfl, by decide,
      noReset_of_all _ _ (by decide) (by decide), rfl⟩⟩

theorem witness_ReadyWaitTimesOut :
    ∃ (s : State) (bound : Nat), s.cfg.valid = true ∧ s.fsm = .wait ∧ s.pollCnt = 0#32 ∧ s.done = false ∧
      s.convTimeout 0 bound ∧ s.noReset (s.cfg.timeoutTicks bound) :=
  ⟨phaseState tinyTimeout .wait [pin true, pin true, pin true], 2, by decide, rfl, rfl, rfl, ⟨rfl, by decide⟩,
    noReset_of_all _ _ (by decide) (by decide)⟩

theorem witness_NeverReadyBlocksForEver :
    ∃ (s : State) (n : Nat), s.cfg.valid = true ∧ s.fsm = .wait ∧ s.cfg.readyTimeoutPolls = none ∧
      (∀ j, s.cfg.pollTicks j < n → s.seen (s.cfg.pollTicks j) = true) ∧ s.noReset n := by
  refine ⟨phaseState tiny .wait [pin true, pin false, pin true], 3, by decide, rfl, rfl, ?_,
    noReset_of_all _ _ (by decide) (by decide)⟩
  intro j hj
  have hj : j * 2 < 3 := hj
  obtain rfl | rfl : j = 0 ∨ j = 1 := by omega
  · rfl
  · rfl

theorem witness_ReadyConverterEndsTheRead :
    ∃ (s : State) (k : Nat), s.cfg.valid = true ∧ s.fsm = .idle ∧ s.initDone = true ∧ s.cfg.readyTimeoutPolls = none ∧
      s.seen (s.cfg.pollTicks k) = false ∧ s.noReset (s.cfg.frameTicks k) :=
  ⟨settledState tiny oneFrame, 1, by decide, rfl, rfl, rfl, by decide, noReset_of_all _ _ (by decide) (by decide)⟩

/-- Both outcomes: a reset in HIGH, and the completion edge. -/
theorem witness_OnlyResetCutsAFrameShort :
    (∃ s t : State, step s = .next t ∧ s.fsm.midFrame = true ∧ t.fsm.midFrame = false ∧ s.breaksFrame = true) ∧
    ∃ s t : State, step s = .next t ∧ s.fsm.midFrame = true ∧ t.fsm.midFrame = false ∧ s.breaksFrame = false :=
  ⟨⟨phaseState tiny .high [resetPin], _, rfl, rfl, rfl, rfl⟩, ⟨phaseState tiny .cselLow [pin true], _, rfl, rfl, rfl, rfl⟩⟩

/-- The clauses of the statements about one frame: unsettled; settled with a frame at the last poll allowed; settled with
a timeout. -/
theorem witness_ReadRawReadsOneFrame :
    (tiny.valid = true ∧ (State.resetWith tiny).fsm = .idle ∧ (State.resetWith tiny).initDone = false) ∧
    (∃ (s : State) (k : Nat) (v : Raw), s.cfg.valid = true ∧ s.fsm = .idle ∧ s.initDone = true ∧ s.convFrame 0 k v ∧
      s.cfg.pollsAllowed k ∧ s.noReset (s.cfg.frameTicks k)) ∧
    ∃ (s : State) (bound : Nat), s.cfg.valid = true ∧ s.fsm = .idle ∧ s.initDone = true ∧ s.convTimeout 0 bound ∧
      s.noReset (s.cfg.timeoutTicks bound) :=
  ⟨⟨tiny_valid, rfl, rfl⟩,
    ⟨settledState tinyTimeout oneFrame, 1, 0xAAAAAA#24, by decide, rfl, rfl, oneFrame_convFrame _ (.inr rfl) rfl rfl rfl,
      by intro b h; injection h with h; omega, noReset_of_all _ _ (by decide) (by decide)⟩,
    ⟨settledState tinyTimeout [pin true, pin true, pin true], 2, by decide, rfl, rfl, ⟨rfl, by decide⟩,
      noReset_of_all _ _ (by decide) (by decide)⟩⟩

/-- The same hypotheses as READ_RAW's. -/
theorem witness_GetWeightMasksTheDifference :
    (tiny.valid = true ∧ (State.resetWith tiny).fsm = .idle ∧ (State.resetWith tiny).initDone = false) ∧
    (∃ (s : State) (k : Nat) (v : Raw), s.cfg.valid = true ∧ s.fsm = .idle ∧ s.initDone = true ∧ s.convFrame 0 k v ∧
      s.cfg.pollsAllowed k ∧ s.noReset (s.cfg.frameTicks k)) ∧
    ∃ (s : State) (bound : Nat), s.cfg.valid = true ∧ s.fsm = .idle ∧ s.initDone = true ∧ s.convTimeout 0 bound ∧
      s.noReset (s.cfg.timeoutTicks bound) := witness_ReadRawReadsOneFrame

/-- `twoFrames` is two frames with a rest between them. -/
theorem twoFrames_convTare (s : State) (hc : s.cfg = tiny) (hs : s.sync = []) (he : s.edges = twoFrames)
    (hn : s.edgeNo = 0) :
    s.convTare 0 [(0, 0x000005#24), (0, 0xFFFFFA#24)] := by
  have hseen : ∀ j, s.seen j = (twoFrames.getD j (Config.portDraw (0 + j))).dataPin := by
    intro j
    simp [State.seen, hs, State.portAt, he, hn]
  have hallowed : tiny.pollsAllowed 0 := by intro b h; cases h
  simp only [State.convTare, State.convFrame, hseen, hc, hallowed, true_and, and_true]
  decide

theorem witness_TareStoresTheTruncatedMean :
    (tiny.valid = true ∧ (State.resetWith tiny).fsm = .idle ∧ (State.resetWith tiny).initDone = false) ∧
    ∃ (s : State) (fs : List (Nat × Raw)), s.cfg.valid = true ∧ s.fsm = .idle ∧ s.initDone = true ∧
      fs.length = s.cfg.nTare ∧ s.convTare 0 fs ∧ s.noReset (s.cfg.tareTicks fs) :=
  ⟨⟨tiny_valid, rfl, rfl⟩,
    ⟨settledState tiny twoFrames, [(0, 0x000005#24), (0, 0xFFFFFA#24)], by decide, rfl, rfl, rfl,
      twoFrames_convTare _ rfl rfl rfl rfl, noReset_of_all _ _ (by decide) (by decide)⟩⟩

/-- One frame of sample 0xFFFFFA, its rest, and a second frame that never becomes ready. -/
def frameThenHigh : List PortIn := answer 0xFFFFFA#24 ++ resting ++ [pin true, pin true, pin true]

/-- A TARE that times out before its first frame, and one that times out after a completed frame, the last but one. -/
theorem witness_TareTimeoutStoresNothing :
    (∃ (s : State) (bound : Nat), s.cfg.valid = true ∧ s.fsm = .idle ∧ s.initDone = true ∧
      ([] : List (Nat × Raw)).length < s.cfg.nTare ∧ s.convTare 0 [] ∧ s.convTimeout (s.cfg.restartTicks []) bound ∧
      s.noReset (s.cfg.restartTicks [] + s.cfg.timeoutTicks bound)) ∧
    ∃ (s : State) (fs : List (Nat × Raw)) (bound : Nat), fs ≠ [] ∧ s.cfg.valid = true ∧ s.fsm = .idle ∧
      s.initDone = true ∧ fs.length < s.cfg.nTare ∧ s.convTare 0 fs ∧ s.convTimeout (s.cfg.restartTicks fs) bound ∧
      s.noReset (s.cfg.restartTicks fs + s.cfg.timeoutTicks bound) := by
  refine ⟨⟨settledState tinyTimeout [pin true, pin true, pin true], 2, by decide, rfl, rfl, by decide, trivial,
      ⟨rfl, by decide⟩, noReset_of_all _ _ (by decide) (by decide)⟩,
    settledState tinyTimeout frameThenHigh, [(0, 0xFFFFFA#24)], 2, by decide, by decide, rfl, rfl, by decide,
      ⟨?_, ?_, trivial⟩, ⟨rfl, by decide⟩, noReset_of_all _ _ (by decide) (by decide)⟩
  · unfold State.convFrame
    decide
  · intro b h
    injection h with h
    omega

/-- One frame a TARE, of sample 0x800000 (T-7); and two states that show the same samples. -/
theorem witness_TareHasNoFilterAndNoMemory :
    (∃ (s : State) (fs : List (Nat × Raw)) (a : Raw), s.cfg.valid = true ∧ s.fsm = .idle ∧ s.initDone = true ∧
      fs.length = s.cfg.nTare ∧ (∀ f ∈ fs, f.2 = a) ∧ s.convTare 0 fs ∧ s.noReset (s.cfg.tareTicks fs)) ∧
    ∃ (s u : State) (fs gs : List (Nat × Raw)), s.cfg.valid = true ∧ u.cfg.valid = true ∧ s.fsm = .idle ∧ u.fsm = .idle ∧
      s.initDone = true ∧ u.initDone = true ∧ s.cfg.nTare = u.cfg.nTare ∧ fs.length = s.cfg.nTare ∧
      fs.map Prod.snd = gs.map Prod.snd ∧ s.convTare 0 fs ∧ u.convTare 0 gs ∧ s.noReset (s.cfg.tareTicks fs) ∧
      u.noReset (u.cfg.tareTicks gs) ∧ s.tareOffset ≠ u.tareOffset := by
  constructor
  · refine ⟨settledState { tiny with nTare := 1 } (answer 0x800000#24), [(0, 0x800000#24)], 0x800000#24, by decide, rfl, rfl,
      rfl, by simp, ⟨?_, ?_, trivial⟩, noReset_of_all _ _ (by decide) (by decide)⟩
    · unfold State.convFrame
      decide
    · intro b h
      cases h
  · exact ⟨settledState tiny twoFrames, { settledState tiny twoFrames with tareOffset := 0x1111#64 },
      [(0, 0x000005#24), (0, 0xFFFFFA#24)], [(0, 0x000005#24), (0, 0xFFFFFA#24)], by decide, by decide, rfl, rfl, rfl, rfl,
      rfl, rfl, rfl, twoFrames_convTare _ rfl rfl rfl rfl, twoFrames_convTare _ rfl rfl rfl rfl,
      noReset_of_all _ _ (by decide) (by decide), noReset_of_all _ _ (by decide) (by decide), by decide⟩

/-- Both ends of the offset's range. -/
theorem witness_WeightMaskIsTheRemainder :
    (-2 ^ 23 ≤ signed64 0xFFFFFFFFFF800000#64 ∧ signed64 0xFFFFFFFFFF800000#64 ≤ 2 ^ 23 - 1) ∧
    -2 ^ 23 ≤ signed64 0x7FFFFF#64 ∧ signed64 0x7FFFFF#64 ≤ 2 ^ 23 - 1 := by decide

/-- The invariant and a step, and each writer: a reset, and the last frame of a TARE. -/
theorem witness_TareOffsetWriters :
    (∃ s t : State, s.Inv ∧ step s = .next t) ∧
    (∃ s t : State, step s = .next t ∧ (s.portAt 0).rst = true ∧ t.tareOffset ≠ s.tareOffset) ∧
    ∃ s t : State, step s = .next t ∧ s.op = .tare ∧ t.tareOffset = 3#64 :=
  ⟨witness_StepKeepsTheInvariant,
    ⟨{ settledState tiny [resetPin] with tareOffset := 0x1111#64 }, _, rfl, rfl, by decide⟩,
    ⟨{ phaseState tiny .cselLow [pin true] with op := .tare, tCount := 1#16, tSum := 2#64, acc := 5#24 }, _, rfl, rfl, rfl⟩⟩

theorem witness_ResultAndRawWriters :
    (∃ s t : State, step s = .next t ∧ s.fsm = .idle ∧ t.result = 1#64) ∧
    ∃ s t : State, step s = .next t ∧ s.fsm = .cselLow ∧ t.raw = 5#24 ∧ t.result = 5#64 :=
  ⟨⟨settledState tiny [offer 0x105#32], _, rfl, rfl, rfl⟩,
    ⟨{ phaseState tiny .cselLow [pin true] with acc := 5#24 }, _, rfl, rfl, rfl, rfl⟩⟩

theorem witness_ResultsAppearWithDone :
    ∃ s t : State, s.Inv ∧ step s = .next t ∧ (s.portAt 0).rst = false ∧ t.result ≠ s.result :=
  ⟨settledState tiny [offer 0x105#32], _, settledState_inv _ _ tiny_valid, rfl, rfl, by decide⟩

theorem witness_InitDoneWriters :
    (∃ s t : State, step s = .next t ∧ s.fsm = .settle ∧ s.initDone = false ∧ t.initDone = true) ∧
    ∃ s t : State, step s = .next t ∧ s.fsm = .idle ∧ s.initDone = true ∧ t.initDone = false :=
  ⟨⟨{ State.resetWith tiny with fsm := .settle, op := .init, edges := [pin true] }, _, rfl, rfl, rfl, rfl⟩,
    ⟨settledState tiny [offer 0x1#32], _, rfl, rfl, rfl, rfl⟩⟩

/-- A command that ends at once, and one that goes on. -/
theorem witness_EveryCommandEndsDoneOrInError :
    (∃ s t : State, s.Inv ∧ step s = .next t ∧ (s.portAt 0).rst = false ∧ (s.portAt 0).cmdValid = true ∧ t.fsm = .idle) ∧
    ∃ s t : State, s.Inv ∧ step s = .next t ∧ (s.portAt 0).rst = false ∧ (s.portAt 0).cmdValid = true ∧ t.fsm ≠ .idle :=
  ⟨⟨settledState tiny [offer 0x105#32], _, settledState_inv _ _ tiny_valid, rfl, rfl, rfl, rfl⟩,
    ⟨settledState tiny [offer 0x3#32], _, settledState_inv _ _ tiny_valid, rfl, rfl, rfl, by decide⟩⟩

/-- A WAIT at its last poll meets the invariant. -/
theorem lastPoll_inv : { phaseState tinyTimeout .wait [pin true] with pollCnt := 1#32 }.Inv := by
  constructor <;> try simp [phaseState, settledState, State.resetWith, FSM.inFrame, OpKind.runsFrames, phaseTicks, signed64]
  · exact tinyTimeout_valid
  · simp [tinyTimeout]
  · simp [tinyTimeout]

/-- An error at acceptance, and one of the ready-wait. -/
theorem witness_ErrorsArePrecise :
    (∃ s t : State, s.Inv ∧ step s = .next t ∧ (s.portAt 0).rst = false ∧ (s.portAt 0).cmdValid = true ∧ t.err = 1#3) ∧
    ∃ s t : State, s.Inv ∧ step s = .next t ∧ (s.portAt 0).rst = false ∧ s.fsm = .wait ∧ t.err = 3#3 :=
  ⟨⟨settledState tiny [offer 0x9#32], _, settledState_inv _ _ tiny_valid, rfl, rfl, rfl, rfl⟩,
    ⟨{ phaseState tinyTimeout .wait [pin true] with pollCnt := 1#32 }, _, lastPoll_inv, rfl, rfl, rfl, rfl⟩⟩

theorem witness_IdleKeepsAllState :
    ∃ (s : State) (n : Nat), s.cfg.valid = true ∧ s.fsm = .idle ∧ s.noReset n ∧ ∀ j < n, (s.portAt j).cmdValid = false :=
  ⟨settledState tiny [pin true, pin false], 2, by decide, rfl, noReset_of_all _ _ (by decide) (by decide), by decide⟩

end Sys2Proof.Tests
end

section
/-! SUPPORT. The configuration's tick counts and checks over the rationals (00_scope.md R6 to R8). -/

namespace Sys2Proof

/-! ### Tick counts (R7) -/

/-- The rounding of R7 in whole numbers is the ceiling of the fraction: both are the least `k` with `n ≤ d * k`. -/
theorem natCeil_div_eq (n : Nat) {d : Nat} (hd : 0 < d) : ⌈(n / d : ℚ)⌉₊ = (n + d - 1) / d := by
  refine eq_of_forall_ge_iff fun k => ?_
  rw [← Nat.ceilDiv_eq_add_pred_div, ceilDiv_le_iff_le_mul hd, Nat.ceil_le, div_le_iff₀ (by exact_mod_cast hd), mul_comm]
  norm_cast

theorem ticksOf_eq_ceil (n : Nat) {d : Nat} (hd : 0 < d) : (ticksOf n d : ℤ) = max 1 ⌈(n / d : ℚ)⌉ := by
  rw [ticksOf, ← natCeil_div_eq n hd, Nat.cast_max, Int.natCast_ceil_eq_ceil (by positivity), Nat.cast_one]

/-- `ticks(d)` of R7 for a duration in a unit of which `u` make a second. -/
theorem ticksOf_duration (d : Duration) (f : Nat) {u : Nat} (hu : 0 < u) (hd : 0 < d.den) :
    (ticksOf (d.num * f) (u * d.den) : ℤ) = max 1 ⌈(d.num / d.den : ℚ) / u * f⌉ := by
  have frac : ((d.num * f : ℕ) / (u * d.den : ℕ) : ℚ) = (d.num / d.den : ℚ) / u * f := by
    push_cast
    field_simp
  rw [ticksOf_eq_ceil _ (Nat.mul_pos hu hd), frac]

theorem Config.ticksUs_eq_ceil (c : Config) (d : Duration) (hd : 0 < d.den) :
    (c.ticksUs d : ℤ) = max 1 ⌈(d.num / d.den : ℚ) / 10 ^ 6 * c.fSysHz⌉ := by
  rw [ticksUs, ticksOf_duration d c.fSysHz (by decide) hd]
  norm_num

theorem Config.ticksMs_eq_ceil (c : Config) (d : Duration) (hd : 0 < d.den) :
    (c.ticksMs d : ℤ) = max 1 ⌈(d.num / d.den : ℚ) / 10 ^ 3 * c.fSysHz⌉ := by
  rw [ticksMs, ticksOf_duration d c.fSysHz (by decide) hd]
  norm_num

/-- Settles O6: each count is the rounding of its own duration. -/
theorem tickCountsRoundUp : Obligations.TickCountsRoundUp := fun c hPoll hHigh hLow hSettle hRest =>
  ⟨c.ticksUs_eq_ceil c.tPollUs hPoll, c.ticksUs_eq_ceil c.tHighUs hHigh, c.ticksUs_eq_ceil c.tLowUs hLow,
    c.ticksMs_eq_ceil c.tSettleMs hSettle, c.ticksMs_eq_ceil c.tRestMs hRest⟩

/-! ### The domains of R6 -/

theorem Duration.defined_iff (d : Duration) : d.defined = true ↔ 0 < d.den := by simp [Duration.defined]

theorem Duration.positive_iff (d : Duration) : d.positive = true ↔ 0 < d.den ∧ 0 < d.num := by
  simp [Duration.positive, Duration.defined]

namespace Config

/-- What R8's constraints need of R6's domains: a frequency to divide by, and thresholds that are numbers. -/
theorem denominators_pos_of_inDomain {c : Config} (h : c.inDomain = true) :
    0 < c.fSysHz ∧ 0 < c.tSettleMs.den ∧ (∀ d, c.tDvUs = some d → 0 < d.den) ∧ ∀ d, c.tPdUs = some d → 0 < d.den := by
  simp only [inDomain, Bool.and_eq_true, decide_eq_true_eq, Option.all_eq_true, Duration.defined_iff,
    Duration.positive_iff] at h
  obtain ⟨hf, -, -, -, hSettle, -, -, hPd, hDv⟩ := h
  exact ⟨hf, hSettle, hDv, fun d hd => (hPd d hd).1⟩

/-! ### The constraints of R8 -/

theorem tareCountOk_iff (c : Config) : c.tareCountOk = true ↔ 1 ≤ c.nTare ∧ c.nTare ≤ 65535 := by simp [tareCountOk]

theorem settleOk_iff {c : Config} (hd : 0 < c.tSettleMs.den) :
    c.settleOk = true ↔ (50 : ℚ) ≤ c.tSettleMs.num / c.tSettleMs.den := by
  rw [settleOk, decide_eq_true_eq, le_div_iff₀ (by exact_mod_cast hd)]
  norm_cast

theorem ticksFit_iff (c : Config) :
    c.ticksFit = true ↔
      c.tPoll ≤ 2 ^ 32 ∧ c.tHigh ≤ 2 ^ 32 ∧ c.tLow ≤ 2 ^ 32 ∧ c.tSettle ≤ 2 ^ 32 ∧ c.tRest ≤ 2 ^ 32 := by
  simp [ticksFit]

theorem syncFits_iff (c : Config) : c.syncFits = true ↔ c.syncStages + 1 ≤ c.tHigh := by simp [syncFits]

/-- The comparison of R8 (5), multiplied out. -/
theorem micros_le_iff (d : Duration) {f n : Nat} (hf : 0 < f) (hd : 0 < d.den) :
    (d.num / d.den : ℚ) / 10 ^ 6 ≤ n / f ↔ d.num * f ≤ n * (1000000 * d.den) := by
  rw [div_div, div_le_div_iff₀ (by positivity) (by exact_mod_cast hf), mul_comm (d.den : ℚ)]
  norm_cast

/-- The comparison of R8 (6), multiplied out. -/
theorem lt_micros_iff (d : Duration) {f n : Nat} (hf : 0 < f) (hd : 0 < d.den) :
    (n / f : ℚ) < (d.num / d.den : ℚ) / 10 ^ 6 ↔ n * (1000000 * d.den) < d.num * f := by
  simpa using (micros_le_iff d (n := n) hf hd).not

/-- R8 (5) under R8 (4), which makes the subtraction of the check one of numbers. -/
theorem dataValidOk_iff {c : Config} (hf : 0 < c.fSysHz) (hd : ∀ d, c.tDvUs = some d → 0 < d.den)
    (hs : c.syncStages + 1 ≤ c.tHigh) :
    c.dataValidOk = true ↔
      ∀ d, c.tDvUs = some d → (d.num / d.den : ℚ) / 10 ^ 6 ≤ ((c.tHigh : ℚ) - c.syncStages) / c.fSysHz := by
  simp only [dataValidOk, Option.all_eq_true, decide_eq_true_eq]
  refine forall₂_congr fun d h => ?_
  rw [← micros_le_iff d hf (hd d h), Nat.cast_sub (by omega)]

theorem powerDownOk_iff {c : Config} (hf : 0 < c.fSysHz) (hd : ∀ d, c.tPdUs = some d → 0 < d.den) :
    c.powerDownOk = true ↔ ∀ d, c.tPdUs = some d → (c.tHigh : ℚ) / c.fSysHz < (d.num / d.den : ℚ) / 10 ^ 6 := by
  simp only [powerDownOk, Option.all_eq_true, decide_eq_true_eq]
  exact forall₂_congr fun d h => (lt_micros_iff d hf (hd d h)).symm

/-- R8 over the rationals, for a configuration in R6's domains. -/
theorem valid_iff_of_inDomain {c : Config} (h : c.inDomain = true) :
    c.valid = true ↔
      (1 ≤ c.nTare ∧ c.nTare ≤ 65535) ∧
      (50 : ℚ) ≤ c.tSettleMs.num / c.tSettleMs.den ∧
      (c.tPoll ≤ 2 ^ 32 ∧ c.tHigh ≤ 2 ^ 32 ∧ c.tLow ≤ 2 ^ 32 ∧ c.tSettle ≤ 2 ^ 32 ∧ c.tRest ≤ 2 ^ 32) ∧
      c.syncStages + 1 ≤ c.tHigh ∧
      (∀ d, c.tDvUs = some d → (d.num / d.den : ℚ) / 10 ^ 6 ≤ ((c.tHigh : ℚ) - c.syncStages) / c.fSysHz) ∧
      ∀ d, c.tPdUs = some d → (c.tHigh : ℚ) / c.fSysHz < (d.num / d.den : ℚ) / 10 ^ 6 := by
  obtain ⟨hf, hSettle, hDv, hPd⟩ := denominators_pos_of_inDomain h
  rw [valid_iff, tareCountOk_iff, settleOk_iff hSettle, ticksFit_iff, syncFits_iff, powerDownOk_iff hf hPd]
  simp only [h, true_and]
  refine and_congr_right' <| and_congr_right' <| and_congr_right' <| and_congr_right fun hs => and_congr_left' ?_
  exact dataValidOk_iff hf hDv hs

end Config
end Sys2Proof
end

section
/-! SUPPORT. The step refuses a bad configuration and nothing else; no step changes the configuration (R6, R8). -/

namespace Sys2Proof.Machine

/-! ### Only a bad configuration is refused -/

/-- Every command has its meaning: acceptance always goes on. -/
theorem exec_answers_next (i : Instr) (s : State) : ∃ t, exec i s = .next t := by
  cases i <;> exact ⟨_, rfl⟩

theorem accept_answers_next (w : Word) (s : State) : ∃ t, accept w s = .next t := by
  unfold accept
  split
  · exact exec_answers_next _ s
  · exact ⟨_, rfl⟩

theorem State.timed_ne_refused {s : State} {exit : State → Answer} {r : Refusal} (h : exit s ≠ .refused r) :
    s.timed exit ≠ .refused r := by
  unfold State.timed
  split
  · exact h
  · nofun

theorem poll_ne_refused (d : Bool) (s : State) (r : Refusal) : poll d s ≠ .refused r := by
  cases d
  · nofun
  · simp only [poll, pollHigh, if_true]
    split
    · nofun
    · split
      · nofun
      · split <;> nofun

theorem lowExit_ne_refused (s : State) (r : Refusal) : lowExit s ≠ .refused r := by
  unfold lowExit
  split
  · nofun
  · split <;> nofun

theorem completeTareFrame_answers_next (s : State) : ∃ t, completeTareFrame s = .next t := by
  simp only [completeTareFrame]
  split <;> exact ⟨_, rfl⟩

theorem frameComplete_ne_refused (s : State) (r : Refusal) : frameComplete s ≠ .refused r := by
  unfold frameComplete
  cases s.op with
  | tare =>
    obtain ⟨t, ht⟩ := completeTareFrame_answers_next s
    simp [ht]
  | readRaw | getWeight | none | init => nofun

theorem row_ne_refused (p : PortIn) (d : Bool) (s : State) (r : Refusal) : row p d s ≠ .refused r := by
  unfold row
  cases s.fsm with
  | idle =>
    obtain ⟨t, ht⟩ := accept_answers_next p.cmd s
    cases p.cmdValid <;> simp [ht]
  | settle => exact State.timed_ne_refused nofun
  | wait => exact poll_ne_refused d s r
  | pollHold => exact State.timed_ne_refused nofun
  | high => exact State.timed_ne_refused nofun
  | low => exact State.timed_ne_refused (lowExit_ne_refused s r)
  | cselHigh => exact State.timed_ne_refused nofun
  | cselLow => exact State.timed_ne_refused (frameComplete_ne_refused s r)
  | rest => exact State.timed_ne_refused nofun

theorem step_ne_refused_of_valid {s : State} (hv : s.cfg.valid = true) (r : Refusal) : step s ≠ .refused r := by
  cases hr : (s.portAt 0).rst
  · rw [step_row s hv hr]
    exact row_ne_refused _ _ _ r
  · simp [step_reset s hv hr]

theorem step_refuses_iff (s : State) : step s = .refused .badConfig ↔ s.cfg.valid ≠ true :=
  ⟨fun h hv => step_ne_refused_of_valid hv _ h, fun h => step_refuses s (Bool.eq_false_iff.2 h)⟩

/-- Settles O7: the step refuses exactly the configurations that are not valid, and inside the domains those are the ones
that break R8. -/
theorem badConfigurationsAreRefused : Obligations.BadConfigurationsAreRefused := by
  refine fun s => ⟨fun hOut => step_refuses s ?_, fun hIn => ?_⟩
  · simp [Config.valid, hOut]
  · rw [step_refuses_iff, Ne, Config.valid_iff_of_inDomain hIn]

/-! ### The configuration is constant -/

/-- No row of R112's table writes the configuration. -/
theorem Row.cfg_eq {p : PortIn} {d : Bool} {s t : State} (h : Row p d s t) : t.cfg = s.cfg := by
  cases h <;> rfl

/-- Settles O9: neither a reset edge nor a row writes the configuration. -/
theorem stepsKeepTheConfiguration : Obligations.StepsKeepTheConfiguration := by
  intro s t h
  obtain ⟨-, ⟨-, rfl⟩ | ⟨-, hrow⟩⟩ := step_cases h
  · exact s.resetEdge_cfg
  · exact hrow.cfg_eq.trans s.clocked_cfg

end Sys2Proof.Machine
end

section
/-! SUPPORT. The state after reset, the status word, and who writes which register (10_state.md). -/

/-! ### Values the writers leave -/

namespace Sys2Proof

/-- What DECODE and READ_RAW write: the decoded sample, sign-extended (R143, R111). -/
theorem bits64_decode24 (m : Raw) : bits64 (decode24 m) = m.signExtend 64 := by
  rw [decode24_eq_toInt]
  rfl

/-- The masked difference has a clear sign bit, so that its signed reading is the remainder too (R167). -/
theorem mask16_toInt (d : Int) : (mask16 d).toInt = d % 2 ^ 16 := by
  have h := mask16_toNat d
  rw [BitVec.toInt_eq_toNat_of_lt (by omega), h]

theorem tareMean_eq_tdiv (z : Int) (n : Nat) : tareMean z n = bits64 (z.tdiv n) := by
  rw [tareMean, quot_eq_tdiv]

end Sys2Proof

namespace Sys2Proof.Machine

/-! ### The state after reset, and the status word (R20, R23, R24) -/

/-- After reset the block is ready and every other port shows 0 (Z-1 of 95_test_vectors.md). -/
theorem State.ports_resetWith (c : Config) :
    (State.resetWith c).ports = ⟨true, 0#32, 0#64, 0#24, 0#64, false⟩ := by
  simp [State.ports, State.cmdReady, State.status, State.busy, State.resetWith]

/-- Settles O11: each clause is the reset value of one field, the last those of the ports. -/
theorem resetStateFollowsTheTable : Obligations.ResetStateFollowsTheTable :=
  ⟨rfl, fun c => ⟨rfl, rfl, rfl, rfl, rfl, rfl, rfl, rfl, rfl, rfl, rfl, rfl, State.ports_resetWith c⟩⟩

/-- The status word bit by bit: three flags, then ERR, then zeros (R24). -/
theorem State.status_getLsbD (s : State) (i : Nat) :
    s.status.getLsbD i =
      if i = 0 then s.busy else if i = 1 then s.initDone else if i = 2 then s.done else s.err.getLsbD (i - 3) := by
  change (0#26 ++ s.err ++ BitVec.ofBool s.done ++ BitVec.ofBool s.initDone ++ BitVec.ofBool s.busy :
    BitVec (26 + 3 + 1 + 1 + 1)).getLsbD i = _
  simp only [BitVec.getLsbD_append]
  rcases i with _ | _ | _ | i
  · simp
  · simp
  · simp
  · simpa using BitVec.lt_of_getLsbD

/-- Settles O12: each field is read off the bits of the status word. -/
theorem statusWordFields : Obligations.StatusWordFields := by
  refine fun s => ⟨s.status_getLsbD 0, s.status_getLsbD 1, s.status_getLsbD 2, ?_, ?_, rfl⟩
  · refine BitVec.eq_of_getLsbD_eq fun i hi => ?_
    rw [BitVec.getLsbD_extractLsb', s.status_getLsbD, if_neg (by omega), if_neg (by omega), if_neg (by omega)]
    simp [hi]
  · intro i hi
    rw [s.status_getLsbD, if_neg (by omega), if_neg (by omega), if_neg (by omega)]
    exact BitVec.getLsbD_of_ge _ _ (by omega)

/-! ### The clock pin (R39) -/

/-- Every row moves the pin and FSM together: into HIGH or CSEL_HIGH the pin rises, out of them it falls, and any other row
goes from a phase with the pin low to another. -/
theorem Row.clockPin_iff {p : PortIn} {d : Bool} {s t : State} (h : Row p d s t)
    (hs : s.clockPin = true ↔ s.fsm = .high ∨ s.fsm = .cselHigh) :
    t.clockPin = true ↔ t.fsm = .high ∨ t.fsm = .cselHigh := by
  cases h with
  | idle | decode | countdown => exact hs
  | ready | nextPulse | channelSelect => simp
  | sample | channelSelected => simp
  | illegal _ hf | init hf | notInit _ hf | tare hf | readRaw hf | getWeight hf | settled hf | pollFree hf
  | pollCounted _ hf | timeout _ hf | pollAgain hf | readRawDone hf | getWeightDone hf | tareFrame hf | tareDone hf
  | rested hf => simpa [hf] using hs

/-- Settles O16: the pin is low in IDLE after reset, and every row keeps the equivalence. -/
theorem clockPinHighExactlyInHighPhases : Obligations.ClockPinHighExactlyInHighPhases := by
  refine ⟨fun c => by simp [State.resetWith], fun s t hs h => ?_⟩
  obtain ⟨-, ⟨-, rfl⟩ | ⟨-, hrow⟩⟩ := step_cases h
  · simp
  · exact hrow.clockPin_iff hs

/-! ### Who writes TARE_OFFSET (R26) -/

/-- Only the last frame of a TARE writes TARE_OFFSET, to the truncated mean (R160). -/
theorem Row.tareOffset_cases {p : PortIn} {d : Bool} {s t : State} (h : Row p d s t) :
    t.tareOffset = s.tareOffset ∨
      s.fsm = .cselLow ∧ s.timer = 0#32 ∧ s.op = .tare ∧ s.cfg.nTare ≤ s.tCount.toNat + 1 ∧ t.fsm = .idle ∧
        t.done = true ∧ t.tareOffset = tareMean (tareSum s.tSum s.acc) s.cfg.nTare := by
  cases h with
  | tareDone hf ht ho hc => exact .inr ⟨hf, ht, ho, hc, rfl, rfl, rfl⟩
  | _ => exact .inl rfl

/-- The mean of a TARE's last frame: a sum of `N_TARE` readings, divided by `N_TARE`, is in the range of one reading (R26). -/
theorem tareMean_range_of_inv {s : State} (hi : s.Inv) (hf : s.fsm ≠ .idle) (ho : s.op = .tare)
    (hc : s.cfg.nTare ≤ s.tCount.toNat + 1) :
    -2 ^ 23 ≤ signed64 (tareMean (tareSum s.tSum s.acc) s.cfg.nTare) ∧
      signed64 (tareMean (tareSum s.tSum s.acc) s.cfg.nTare) ≤ 2 ^ 23 - 1 := by
  have hlast : s.cfg.nTare = s.tCount.toNat + 1 := by
    have := hi.tareCount hf ho
    omega
  obtain ⟨hsum1, hsum2⟩ := hi.tareSum hf ho
  obtain ⟨hacc1, hacc2⟩ := decode24_range s.acc
  obtain ⟨hq1, hq2⟩ := quot_range (tareSum s.tSum s.acc) s.cfg.nTare (by omega)
    (by unfold tareSum; omega) (by unfold tareSum; omega)
  rw [tareMean, signed64_bits64 _ (by omega) (by omega)]
  exact ⟨hq1, hq2⟩

/-- Settles O39: a reset edge writes 0, and among the rows only the last frame of a TARE writes. -/
theorem tareOffsetWriters : Obligations.TareOffsetWriters := by
  intro s t h
  obtain ⟨-, ⟨hr, rfl⟩ | ⟨hr, hrow⟩⟩ := step_cases h
  · exact ⟨.inr (.inl ⟨hr, rfl⟩), fun _ => by simp [signed64]⟩
  · obtain hkeep | ⟨hf, ht, ho, hc, htf, htd, hmean⟩ := hrow.tareOffset_cases
    · exact ⟨.inl hkeep, fun hi => hkeep ▸ hi.offset⟩
    · refine ⟨.inr (.inr ⟨hr, hf, ht, ho, hc, htf, htd, ?_⟩), fun hi => ?_⟩
      · rw [hmean, tareMean_eq_tdiv]
        rfl
      · rw [hmean]
        exact tareMean_range_of_inv (s := s) hi (fun hidle => by simp [hidle] at hf) ho hc

/-! ### Who writes RESULT and RAW (R27, R28) -/

/-- DECODE, READ_RAW and GET_WEIGHT write RESULT, each its value (R143, R111, R165). -/
theorem Row.result_cases {p : PortIn} {d : Bool} {s t : State} (h : Row p d s t) :
    t.result = s.result ∨
      s.fsm = .idle ∧ p.cmdValid = true ∧ (∃ m, decodeCmd p.cmd = .cmd (.decode m) ∧ t.result = m.signExtend 64) ∨
      s.fsm = .cselLow ∧ s.timer = 0#32 ∧ s.op = .readRaw ∧ t.result = s.acc.signExtend 64 ∨
      s.fsm = .cselLow ∧ s.timer = 0#32 ∧ s.op = .getWeight ∧
        t.result.toInt = (decode24 s.acc - signed64 s.tareOffset) % 2 ^ 16 := by
  cases h with
  | decode m hf ho hd => exact .inr (.inl ⟨hf, ho, m, hd, bits64_decode24 m⟩)
  | readRawDone hf ht ho => exact .inr (.inr (.inl ⟨hf, ht, ho, bits64_decode24 s.acc⟩))
  | getWeightDone hf ht ho => exact .inr (.inr (.inr ⟨hf, ht, ho, mask16_toInt _⟩))
  | _ => exact .inl rfl

/-- RAW takes ACC where a frame ends its command (R111, R165, R160). -/
theorem Row.raw_cases {p : PortIn} {d : Bool} {s t : State} (h : Row p d s t) :
    t.raw = s.raw ∨
      s.fsm = .cselLow ∧ s.timer = 0#32 ∧ t.fsm = .idle ∧ t.raw = s.acc ∧
        (s.op = .readRaw ∨ s.op = .getWeight ∨ s.op = .tare) := by
  cases h with
  | readRawDone hf ht ho => exact .inr ⟨hf, ht, rfl, rfl, .inl ho⟩
  | getWeightDone hf ht ho => exact .inr ⟨hf, ht, rfl, rfl, .inr (.inl ho)⟩
  | tareDone hf ht ho => exact .inr ⟨hf, ht, rfl, rfl, .inr (.inr ho)⟩
  | _ => exact .inl rfl

/-- Settles O40: a reset edge writes 0 to both, and the rows that write are those of `Row.result_cases` and `Row.raw_cases`. -/
theorem resultAndRawWriters : Obligations.ResultAndRawWriters := by
  intro s t h
  obtain ⟨-, ⟨hr, rfl⟩ | ⟨hr, hrow⟩⟩ := step_cases h
  · exact ⟨.inr (.inl ⟨hr, rfl⟩), .inr (.inl ⟨hr, rfl⟩)⟩
  · exact ⟨hrow.result_cases.imp_right fun hw => .inr ⟨hr, hw⟩,
      hrow.raw_cases.imp_right fun hw => .inr ⟨hr, hw⟩⟩

/-! ### Who writes INIT_DONE (R34) -/

/-- The end of a settle sets INIT_DONE, and the acceptance of an INIT clears it (R101, R100). -/
theorem Row.initDone_cases {p : PortIn} {d : Bool} {s t : State} (h : Row p d s t) :
    t.initDone = s.initDone ∨
      s.fsm = .settle ∧ s.timer = 0#32 ∧ t.initDone = true ∧ t.fsm = .idle ∨
      s.fsm = .idle ∧ p.cmdValid = true ∧ decodeCmd p.cmd = .cmd .init ∧ t.initDone = false := by
  cases h with
  | settled hf ht => exact .inr (.inl ⟨hf, ht, rfl, rfl⟩)
  | init hf ho hd => exact .inr (.inr ⟨hf, ho, hd, rfl⟩)
  | _ => exact .inl rfl

/-- Settles O42: a reset edge clears INIT_DONE, and the rows that write it are those of `Row.initDone_cases`. -/
theorem initDoneWriters : Obligations.InitDoneWriters := by
  intro s t h
  obtain ⟨-, ⟨hr, rfl⟩ | ⟨hr, hrow⟩⟩ := step_cases h
  · exact .inr (.inl ⟨hr, rfl⟩)
  · exact hrow.initDone_cases.imp_right fun hw => .inr ⟨hr, hw⟩

/-! ### DONE and ERR at the end of a command (R35, R36) -/

/-- From a state in which a running command has neither flag, a row that runs or accepts a command leaves IDLE with exactly
one of DONE and ERR, and any other phase with neither. -/
theorem Row.done_err_cases {p : PortIn} {d : Bool} {s t : State} (h : Row p d s t)
    (hclean : s.fsm ≠ .idle → s.done = false ∧ s.err = 0#3) (hcmd : s.fsm ≠ .idle ∨ p.cmdValid = true) :
    (t.fsm = .idle → (t.done = true ∧ t.err = 0#3) ∨ (t.done = false ∧ t.err ≠ 0#3)) ∧
      (t.fsm ≠ .idle → t.done = false ∧ t.err = 0#3) := by
  cases h with
  | idle hf ho => simp [hf, ho] at hcmd
  | illegal | notInit => simp
  | decode _ hf => simp [hf]
  | init | tare | readRaw | getWeight => simp
  | settled hf | readRawDone hf | getWeightDone hf | tareDone hf | timeout _ hf => simp [hclean (by simp [hf])]
  | countdown hf =>
    have hbusy : s.fsm ≠ .idle := fun hidle => by simp [hidle, FSM.isTimed] at hf
    exact ⟨fun hidle => absurd hidle hbusy, hclean⟩
  | ready hf | pollFree hf | pollCounted _ hf | pollAgain hf | sample hf | nextPulse hf | channelSelect hf
  | channelSelected hf | tareFrame hf | rested hf => simpa [hf] using hclean

/-- Settles O43: the invariant says that a running command has neither flag, and every row keeps the two apart. -/
theorem everyCommandEndsDoneOrInError : Obligations.EveryCommandEndsDoneOrInError := by
  intro s t hi h hr hcmd
  obtain ⟨-, ⟨hr', -⟩ | ⟨-, hrow⟩⟩ := step_cases h
  · simp [hr] at hr'
  · exact hrow.done_err_cases hi.busyClean hcmd

end Sys2Proof.Machine
end

section
/-! SUPPORT. How a frame ends (R54, R232), and when the caller sees a result change (R57, R243). -/

namespace Sys2Proof.Machine

/-! ### How a frame ends (R54, R232) -/

/-- A row leaves the clocked phases of a frame only where the channel-select pulse ends: a TARE with frames to go rests, any
other completion ends the command with DONE (R108). -/
theorem Row.frame_completes_of_leaves_midFrame {p : PortIn} {d : Bool} {s t : State} (h : Row p d s t)
    (hs : s.fsm.midFrame = true) (ht : t.fsm.midFrame = false) :
    s.fsm = .cselLow ∧ s.timer = 0#32 ∧ (t.fsm = .idle ∧ t.done = true ∨ t.fsm = .rest) := by
  cases h with
  | readRawDone hf h0 | getWeightDone hf h0 | tareDone hf h0 => exact ⟨hf, h0, .inl ⟨rfl, rfl⟩⟩
  | tareFrame hf h0 => exact ⟨hf, h0, .inr rfl⟩
  | countdown => exact absurd hs (Bool.eq_false_iff.1 ht)
  | sample | nextPulse | channelSelect | channelSelected => cases ht
  | idle hf | illegal _ hf | init hf | decode _ hf | notInit _ hf | tare hf | readRaw hf | getWeight hf | settled hf
  | ready hf | pollFree hf | pollCounted _ hf | timeout _ hf | pollAgain hf | rested hf => simp [hf, FSM.midFrame] at hs

/-- Settles O32: a reset edge in a frame breaks it and leaves the pin low; a row that leaves the frame completes it. -/
theorem onlyResetCutsAFrameShort : Obligations.OnlyResetCutsAFrameShort := by
  intro s t h hs ht
  obtain ⟨-, ⟨hr, rfl⟩ | ⟨hr, hrow⟩⟩ := step_cases h
  · exact .inl ⟨by simp [State.breaksFrame, hr, hs], s.resetEdge_clockPin⟩
  · exact .inr ⟨hr, hrow.frame_completes_of_leaves_midFrame hs ht⟩

/-! ### When results appear (R57, R243) -/

/-- A row that writes RESULT, RAW or TARE_OFFSET ends its command with DONE. DECODE clears ERR at this edge; a frame's
completion finds it clear, as it has been since acceptance. -/
theorem Row.results_eq_or_done {p : PortIn} {d : Bool} {s t : State} (h : Row p d s t)
    (herr : s.fsm ≠ .idle → s.err = 0#3) :
    (t.result = s.result ∧ t.raw = s.raw ∧ t.tareOffset = s.tareOffset) ∨
      t.done = true ∧ t.err = 0#3 ∧ t.fsm = .idle := by
  cases h with
  | decode _ hf => exact .inr ⟨rfl, rfl, hf⟩
  | readRawDone hf | getWeightDone hf | tareDone hf => exact .inr ⟨rfl, herr (by simp [hf]), rfl⟩
  | _ => exact .inl ⟨rfl, rfl, rfl⟩

/-- Settles O41: without reset the step is a row, and the invariant keeps ERR clear while a command runs. -/
theorem resultsAppearWithDone : Obligations.ResultsAppearWithDone := by
  intro s t hi h hr hchange
  obtain ⟨-, ⟨hr', -⟩ | ⟨-, hrow⟩⟩ := step_cases h
  · simp [hr] at hr'
  · obtain ⟨hresult, hraw, hoffset⟩ | hdone := hrow.results_eq_or_done fun hf => (hi.busyClean hf).2
    · simp [hresult, hraw, hoffset] at hchange
    · exact hdone

end Sys2Proof.Machine
end

section
/-! SUPPORT. The command words (30_encoding.md): the decoder and the encoder are inverse, the rows of the opcode map, the
illegal words, and what the assembler emits. -/

namespace Sys2Proof

/-! ### The decoder and the encoder (R71, R72, R75) -/

/-- A word is the word of a command exactly when its fields are the command's (R71). -/
theorem eq_encode_iff (w : Word) (i : Instr) :
    w = encode i ↔ rsvOf w = 0#5 ∧ opcOf w = i.opc ∧ imm24Of w = i.imm24 := by
  constructor
  · rintro rfl
    simp [encode]
  · rintro ⟨hr, ho, hm⟩
    calc w = imm24Of w ++ rsvOf w ++ opcOf w := word_fields w
      _ = encode i := by rw [hm, hr, ho, encode]

theorem decodeBare_eq_cmd_iff (i j : Instr) (m : Raw) : decodeBare i m = .cmd j ↔ i = j ∧ m = 0#24 := by
  unfold decodeBare
  split <;> simp [*]

theorem decodeCmd_encode (i : Instr) : decodeCmd (encode i) = .cmd i := by
  obtain ⟨hr, ho, hm⟩ := (eq_encode_iff _ i).1 rfl
  cases i <;> simp [decodeCmd, decodeBare, hr, ho, hm, Instr.opc, Instr.imm24]

/-- A branch of the decoder that answers a command has read all three fields of the word. -/
theorem eq_encode_of_decodeCmd {w : Word} {i : Instr} (h : decodeCmd w = .cmd i) : w = encode i := by
  rw [eq_encode_iff]
  have bare (j : Instr) (hj : j.imm24 = 0#24) (hr : rsvOf w = 0#5) (ho : opcOf w = j.opc)
      (hb : decodeBare j (imm24Of w) = .cmd i) : rsvOf w = 0#5 ∧ opcOf w = i.opc ∧ imm24Of w = i.imm24 := by
    obtain ⟨rfl, hm⟩ := (decodeBare_eq_cmd_iff _ _ _).1 hb
    exact ⟨hr, ho, hm.trans hj.symm⟩
  unfold decodeCmd at h
  split at h
  · cases h
  rename_i hr
  have hr := Decidable.not_not.1 hr
  split at h
  · exact bare .init rfl hr ‹_› h
  split at h
  · exact bare .tare rfl hr ‹_› h
  split at h
  · exact bare .readRaw rfl hr ‹_› h
  split at h
  · exact bare .getWeight rfl hr ‹_› h
  split at h
  · cases h
    exact ⟨hr, ‹_›, rfl⟩
  · cases h

/-- THE DECODER: it answers a command on the word of that command and on no other. -/
theorem decodeCmd_eq_cmd_iff (w : Word) (i : Instr) : decodeCmd w = .cmd i ↔ w = encode i :=
  ⟨eq_encode_of_decodeCmd, fun h => h ▸ decodeCmd_encode i⟩

/-- An operand fits the field it is typed by (R73). -/
theorem Instr.wellFormed_eq_true (i : Instr) : i.wellFormed = true := by
  cases i with
  | decode m => exact decide_eq_true (Nat.le_of_lt_succ m.isLt)
  | _ => rfl

/-- Settles O2: the decoder reads the three fields of an encoding back, and only a command's own fields lead to it. -/
theorem decodeExactlyInvertsEncode : Obligations.DecodeExactlyInvertsEncode :=
  ⟨fun i => ⟨i.wellFormed_eq_true, decodeCmd_encode i⟩, fun _ _ => eq_encode_of_decodeCmd⟩

/-! ### The illegal words (R74) -/

@[simp] theorem Decoded.toOption_cmd (i : Instr) : (Decoded.cmd i).toOption = some i := rfl
@[simp] theorem Decoded.toOption_illegal (why : IllegalWord) : (Decoded.illegal why).toOption = none := rfl

theorem Decoded.toOption_eq_none_iff (d : Decoded) : d.toOption = none ↔ ∃ why, d = .illegal why := by
  cases d <;> simp

theorem decodeBare_toOption_eq_none_iff (i : Instr) (m : Raw) : (decodeBare i m).toOption = none ↔ m ≠ 0#24 := by
  unfold decodeBare
  split <;> simp [*]

/-- The eight operation codes. -/
theorem opc_cases (o : BitVec 3) :
    o = 0b000#3 ∨ o = 0b001#3 ∨ o = 0b010#3 ∨ o = 0b011#3 ∨ o = 0b100#3 ∨ o = 0b101#3 ∨ o = 0b110#3 ∨ o = 0b111#3 := by
  revert o
  decide

/-- The decoder rejects on the grounds (a), (b), (c) of R74 and on no other: with the reserved bits 0, each operation code
either answers a command, or needs `IMM24 = 0`, or is reserved. -/
theorem decodeCmd_toOption_eq_none_iff (w : Word) :
    (decodeCmd w).toOption = none ↔
      (opcOf w = 0b000#3 ∨ opcOf w = 0b110#3 ∨ opcOf w = 0b111#3) ∨ rsvOf w ≠ 0#5 ∨
        ((opcOf w = 0b001#3 ∨ opcOf w = 0b010#3 ∨ opcOf w = 0b011#3 ∨ opcOf w = 0b100#3) ∧ imm24Of w ≠ 0#24) := by
  by_cases hr : rsvOf w = 0#5
  · obtain ho | ho | ho | ho | ho | ho | ho | ho := opc_cases (opcOf w) <;>
      simp [decodeCmd, hr, ho, decodeBare_toOption_eq_none_iff]
  · simp [decodeCmd, hr]

/-! ### The opcode map as masks (R72) -/

/-- A mask of the low `k` bits leaves the remainder modulo `2 ^ k`. -/
theorem toNat_and_lowMask (w : Word) (k : Nat) (hk : k < 32) :
    (w &&& BitVec.ofNat 32 (2 ^ k - 1)).toNat = w.toNat % 2 ^ k := by
  have : 2 ^ k ≤ 2 ^ 31 := Nat.pow_le_pow_right (by decide) (by omega)
  rw [BitVec.toNat_and, BitVec.toNat_ofNat, Nat.mod_eq_of_lt (by omega), Nat.and_two_pow_sub_one_eq_mod]

/-- The low three bits of a word are its operation code. -/
theorem and_7_eq_iff (w : Word) (o : BitVec 3) : w &&& 0x00000007#32 = o.setWidth 32 ↔ opcOf w = o := by
  have hw : (w &&& 0x00000007#32).toNat = w.toNat % 8 := toNat_and_lowMask w 3 (by decide)
  have ho := o.isLt
  rw [← BitVec.toNat_inj, ← BitVec.toNat_inj, hw, opcOf_toNat, BitVec.toNat_setWidth,
    Nat.mod_eq_of_lt (b := 2 ^ 32) (by omega)]

/-- The low byte of a word is a command's low byte exactly when its reserved bits are 0 and its code is the command's. -/
theorem and_FF_eq_iff (w : Word) (o : BitVec 3) :
    w &&& 0x000000FF#32 = o.setWidth 32 ↔ rsvOf w = 0#5 ∧ opcOf w = o := by
  have hw : (w &&& 0x000000FF#32).toNat = w.toNat % 256 := toNat_and_lowMask w 8 (by decide)
  have ho := o.isLt
  rw [← BitVec.toNat_inj, ← BitVec.toNat_inj, ← BitVec.toNat_inj, hw, rsvOf_toNat, opcOf_toNat, BitVec.toNat_setWidth,
    Nat.mod_eq_of_lt (b := 2 ^ 32) (by omega), BitVec.toNat_zero]
  omega

/-- The mask of the rows without operand leaves every bit: such a row is matched on the whole word. -/
theorem decodeCmd_eq_cmd_iff_and_allOnes (w : Word) (i : Instr) :
    decodeCmd w = .cmd i ↔ w &&& 0xFFFFFFFF#32 = encode i := by
  have hw : w &&& 0xFFFFFFFF#32 = w := BitVec.and_allOnes
  rw [hw, decodeCmd_eq_cmd_iff]

/-- The row of DECODE is matched on the low byte, and the operand is the rest (R73). -/
theorem decodeCmd_eq_decode_iff (w : Word) (m : Raw) :
    decodeCmd w = .cmd (.decode m) ↔ w &&& 0x000000FF#32 = 0x00000005#32 ∧ m = imm24Of w := by
  have hbyte : w &&& 0x000000FF#32 = 0x00000005#32 ↔ rsvOf w = 0#5 ∧ opcOf w = 0b101#3 := and_FF_eq_iff w 0b101#3
  rw [decodeCmd_eq_cmd_iff, eq_encode_iff, hbyte, and_assoc, eq_comm (a := m)]
  rfl

/-- Settles O3: each row's mask and match pin down the fields of the row's command. -/
theorem opcodeMapSelectsRows : Obligations.OpcodeMapSelectsRows := by
  intro w
  refine ⟨decodeCmd_eq_cmd_iff_and_allOnes w .init, decodeCmd_eq_cmd_iff_and_allOnes w .tare,
    decodeCmd_eq_cmd_iff_and_allOnes w .readRaw, decodeCmd_eq_cmd_iff_and_allOnes w .getWeight, decodeCmd_eq_decode_iff w,
    fun h => (decodeCmd_toOption_eq_none_iff w).2 (.inl ?_)⟩
  exact h.imp (and_7_eq_iff w 0b000#3).1 (.imp (and_7_eq_iff w 0b110#3).1 (and_7_eq_iff w 0b111#3).1)

/-! ### The assembler (R76) -/

theorem assemble_of_wellFormed {a : AsmCmd} (h : a.wellFormed = true) : assemble a = .ok a.emit := by
  simp [assemble, h]

theorem assemble_of_not_wellFormed {a : AsmCmd} (h : a.wellFormed = false) : assemble a = .error .operandOutOfRange := by
  simp [assemble, h]

theorem AsmCmd.decode_wellFormed_iff (m : Nat) : (AsmCmd.decode m).wellFormed = true ↔ m ≤ 0xFFFFFF := by
  simp [AsmCmd.wellFormed]

/-- The word of a DECODE line as a number: the shifted operand leaves the low byte to the code (R76). -/
theorem emit_decode (m : Nat) : (AsmCmd.decode m).emit = BitVec.ofNat 32 (m * 256 + 5) := by
  have hsum : m * 256 + 5 = m <<< 8 ||| 5 := by
    rw [← Nat.shiftLeft_add_eq_or_of_lt (by decide), Nat.shiftLeft_eq]
  have hshift : BitVec.ofNat 32 (m <<< 8) = BitVec.ofNat 32 m <<< 8 := by
    rw [Nat.shiftLeft_eq, BitVec.ofNat_mul, BitVec.shiftLeft_eq_mul_twoPow]
    rfl
  rw [hsum, BitVec.ofNat_or, hshift, AsmCmd.emit]

/-- A line with its operand in range emits the word of its command. -/
theorem emit_eq_encode {a : AsmCmd} (h : a.wellFormed = true) : a.emit = encode a.toInstr := by
  cases a with
  | decode m =>
    have hm := (AsmCmd.decode_wellFormed_iff m).1 h
    have henc : (encode (AsmCmd.decode m).toInstr).toNat = 256 * (m % 2 ^ 24) + 5 := encode_toNat _
    apply BitVec.eq_of_toNat_eq
    rw [emit_decode, henc, BitVec.toNat_ofNat]
    omega
  | _ => rfl

theorem assemble_eq_ok_encode {a : AsmCmd} (h : a.wellFormed = true) : assemble a = .ok (encode a.toInstr) := by
  rw [assemble_of_wellFormed h, emit_eq_encode h]

/-- Settles O5: a line in range emits its command's word, which R76's formula gives as a number; any other is refused. -/
theorem assemblerEmitsCommandWords : Obligations.AssemblerEmitsCommandWords := by
  refine ⟨fun _ => assemble_eq_ok_encode, fun m hm => ?_, fun m hm => ?_⟩
  · rw [assemble_of_wellFormed ((AsmCmd.decode_wellFormed_iff m).2 hm), emit_decode]
  · refine assemble_of_not_wellFormed (Bool.eq_false_iff.2 fun h => ?_)
    have := (AsmCmd.decode_wellFormed_iff m).1 h
    omega

/-- A line in range and its word: the assembler emits the word, and the decoder reads it as the line's command. -/
theorem assemble_decode_roundTrip {a : AsmCmd} {w : Word} (ha : a.wellFormed = true) (hw : encode a.toInstr = w) :
    assemble a = .ok w ∧ decodeCmd w = .cmd a.toInstr :=
  hw ▸ ⟨assemble_eq_ok_encode ha, decodeCmd_encode _⟩

/-- Settles O1: every line of R77 is in range and its word is its command's; each illegal word has a ground of R74. -/
theorem encodingExamplesAgree : Obligations.EncodingExamplesAgree := by
  refine ⟨assemble_decode_roundTrip rfl rfl, assemble_decode_roundTrip rfl rfl, assemble_decode_roundTrip rfl rfl,
    assemble_decode_roundTrip rfl rfl, assemble_decode_roundTrip rfl rfl, assemble_decode_roundTrip rfl rfl,
    assemble_decode_roundTrip rfl rfl, assemble_decode_roundTrip rfl rfl, assemble_decode_roundTrip rfl rfl, ?_⟩
  intro w hw
  rw [decodeCmd_toOption_eq_none_iff]
  simp only [List.mem_cons, List.not_mem_nil, or_false] at hw
  obtain rfl | rfl | rfl | rfl | rfl := hw
  · exact .inl (.inl rfl)
  · exact .inl (.inr (.inl rfl))
  · exact .inl (.inr (.inr rfl))
  · exact .inr (.inl (by decide))
  · exact .inr (.inr ⟨.inr (.inr (.inl rfl)), by decide⟩)

end Sys2Proof

namespace Sys2Proof.Machine

/-! ### An illegal word accepted (R202) -/

/-- Accepted, an illegal word raises ILLEGAL whatever INIT_DONE is. -/
theorem accept_of_illegal {w : Word} (s : State) (h : (decodeCmd w).toOption = none) :
    accept w s = .next (s.acceptance.raise .illegal) := by
  obtain ⟨why, hw⟩ := (Decoded.toOption_eq_none_iff _).1 h
  simp [accept, hw]

/-- In IDLE an error at acceptance writes DONE and ERR alone. -/
theorem State.acceptance_raise_of_idle {s : State} (hf : s.fsm = .idle) (e : ErrCode) :
    s.acceptance.raise e = { s with done := false, err := e.code } := by
  rw [State.raise, State.acceptance, ← hf]

/-- Settles O4: the decoder's grounds, and the IDLE row of the transition table with an illegal word on the port. -/
theorem illegalWordsOnlySetErr : Obligations.IllegalWordsOnlySetErr := by
  refine ⟨decodeCmd_toOption_eq_none_iff, fun s hv hr hc hf hw => ?_⟩
  calc step s = row (s.portAt 0) (s.seen 0) s.clocked := step_row s hv hr
    _ = accept (s.portAt 0).cmd s.clocked := by simp [row, hf, hc]
    _ = .next (s.clocked.acceptance.raise .illegal) := accept_of_illegal _ hw
    _ = .next { s.clocked with done := false, err := 1#3 } :=
      congrArg _ (State.acceptance_raise_of_idle (s := s.clocked) hf .illegal)

end Sys2Proof.Machine
end

section
/-! SUPPORT. The invariant (40_acquisition.md R112): every step keeps it, and from a state that meets it some row applies. -/

namespace Sys2Proof.Machine

/-! ### Reset and the shift of an edge -/

/-- The reset column meets the invariant (R230): nothing runs, and every counter, flag and result is 0. -/
theorem State.inv_resetWith {c : Config} (hv : c.valid = true) : (State.resetWith c).Inv where
  cfgValid := hv
  syncLength := List.length_replicate
  clock := by simp [State.resetWith]
  timer := nofun
  bitCnt := by simp [State.resetWith]
  bitCntHigh := nofun
  bitCntLow := nofun
  bitCntCsel := by simp [State.resetWith]
  acc := by simp [State.resetWith]
  opFrame := nofun
  opRest := nofun
  opSettle := nofun
  pollNone _ := rfl
  pollSome k hk := (Config.timeout_of_valid hv hk).1
  busyClean h := absurd rfl h
  settling := nofun
  settled h := absurd rfl h
  errCode := by simp [State.resetWith]
  doneClean := nofun
  offset := by simp [State.resetWith, signed64]
  tareCount h := absurd rfl h
  tareSum h := absurd rfl h

/-- A reset edge gives the reset column, whatever the environment does next. -/
theorem State.Inv.resetEdge {s : State} (h : s.Inv) : s.resetEdge.Inv :=
  { State.inv_resetWith h.cfgValid with }

/-- The shift of SYNC keeps its length, and the rest of the invariant does not look at it. -/
theorem State.Inv.clocked {s : State} (h : s.Inv) : s.clocked.Inv :=
  { h with syncLength := by simpa using h.syncLength }

/-! ### What the rows keep, part by part -/

/-- Every row leaves TIMER below the length of the phase it leads to: it loads the length less one, or counts down (R30). -/
theorem Row.timer_lt {p : PortIn} {d : Bool} {s t : State} (h : Row p d s t) (hi : s.Inv) :
    ∀ n, phaseTicks t.cfg t.fsm = some n → t.timer.toNat < n := by
  obtain ⟨hP, hH, hL, hS, hR⟩ := Config.ticks_of_valid hi.cfgValid
  have load {n : Nat} (h1 : 1 ≤ n) (h2 : n ≤ 2 ^ 32) (m : Nat) (hm : some n = some m) :
      (BitVec.ofNat 32 (n - 1)).toNat < m := by
    injection hm with hm
    rw [timerLoad_toNat h1 h2]
    omega
  cases h with
  | idle | decode => exact hi.timer
  | countdown hf ht =>
    intro n hn
    have hlt := hi.timer n hn
    have hpos : s.timer.toNat ≠ 0 := fun h0 => ht (BitVec.eq_of_toNat_eq h0)
    have := s.timer.isLt
    simp only [BitVec.toNat_sub, BitVec.toNat_ofNat]
    omega
  | illegal | notInit | settled | timeout | readRawDone | getWeightDone | tareDone => nofun
  | tare | readRaw | getWeight | pollAgain | rested => nofun
  | init => exact load s.cfg.one_le_tSettle hS
  | ready | nextPulse | channelSelect => exact load s.cfg.one_le_tHigh hH
  | pollFree | pollCounted => exact load s.cfg.one_le_tPoll hP
  | sample | channelSelected => exact load s.cfg.one_le_tLow hL
  | tareFrame => exact load s.cfg.one_le_tRest hR

/-- The counters of a frame: `BITCNT` data pulses are done, and ACC holds as many bits (R105, R106, R107, R112). -/
structure State.PulsesCounted (s : State) : Prop where
  bitCnt : s.bitCnt.toNat ≤ 24
  high : s.fsm = .high → s.bitCnt.toNat < 24
  low : s.fsm = .low → 0 < s.bitCnt.toNat
  csel : s.fsm = .cselHigh ∨ s.fsm = .cselLow → s.bitCnt.toNat = 24
  acc : s.fsm = .high ∨ s.fsm = .low → s.acc.toNat < 2 ^ s.bitCnt.toNat

theorem State.Inv.pulsesCounted {s : State} (hi : s.Inv) : s.PulsesCounted :=
  ⟨hi.bitCnt, hi.bitCntHigh, hi.bitCntLow, hi.bitCntCsel, hi.acc⟩

/-- One more data pulse: BITCNT goes up by one and ACC by one bit (R106). -/
theorem State.PulsesCounted.afterSample {s : State} (hi : s.PulsesCounted) (hf : s.fsm = .high) (b : Bool) :
    (s.bitCnt + 1#5).toNat = s.bitCnt.toNat + 1 ∧ (shiftIn s.acc b).toNat < 2 ^ (s.bitCnt.toNat + 1) := by
  have hlt := hi.high hf
  have hacc := hi.acc (.inl hf)
  have hsmall : s.acc.toNat < 2 ^ 23 := hacc.trans_le (Nat.pow_le_pow_right (by decide) (by omega))
  constructor
  · rw [BitVec.toNat_add]
    exact Nat.mod_eq_of_lt (by simp; omega)
  · have := Bool.toNat_le b
    rw [shiftIn_toNat _ _ hsmall, Nat.pow_succ]
    omega

theorem Row.pulsesCounted {p : PortIn} {d : Bool} {s t : State} (h : Row p d s t) (hi : s.PulsesCounted) :
    t.PulsesCounted := by
  cases h with
  | idle | decode | countdown => exact { hi with }
  | ready => constructor <;> simp
  | sample hf =>
    obtain ⟨hcnt, hacc⟩ := hi.afterSample hf d
    have hlt := hi.high hf
    constructor <;> simp only [hcnt]
    · omega
    · nofun
    · omega
    · simp
    · exact fun _ => hacc
  | nextPulse hf _ hb => exact ⟨hi.bitCnt, fun _ => hb, nofun, by simp, fun _ => hi.acc (.inr hf)⟩
  | channelSelect hf _ hb => exact ⟨hi.bitCnt, nofun, nofun, fun _ => hb, by simp⟩
  | channelSelected hf => exact ⟨hi.bitCnt, nofun, nofun, fun _ => hi.csel (.inl hf), by simp⟩
  | illegal | init | notInit | tare | readRaw | getWeight | settled | pollFree | pollCounted | timeout | pollAgain
  | readRawDone | getWeightDone | tareFrame | tareDone | rested => exact ⟨hi.bitCnt, nofun, nofun, by simp, by simp⟩

/-- OP is the command that the phase belongs to (R112). -/
structure State.OpFitsPhase (s : State) : Prop where
  frame : s.fsm.inFrame = true → s.op.runsFrames = true
  rest : s.fsm = .rest → s.op = .tare
  settle : s.fsm = .settle → s.op = .init

theorem State.Inv.opFitsPhase {s : State} (hi : s.Inv) : s.OpFitsPhase := ⟨hi.opFrame, hi.opRest, hi.opSettle⟩

/-- Only acceptance writes OP, and it leads into the phases of that OP; a rest follows a frame of a TARE only. -/
theorem Row.opFitsPhase {p : PortIn} {d : Bool} {s t : State} (h : Row p d s t) (hi : s.OpFitsPhase) :
    t.OpFitsPhase := by
  cases h with
  | idle | decode | countdown => exact { hi with }
  | illegal | notInit | settled | timeout | readRawDone | getWeightDone | tareDone => exact ⟨nofun, nofun, nofun⟩
  | init => exact ⟨nofun, nofun, fun _ => rfl⟩
  | tare | readRaw | getWeight => exact ⟨fun _ => rfl, nofun, nofun⟩
  | ready hf | pollFree hf | pollCounted _ hf | pollAgain hf | sample hf | nextPulse hf | channelSelect hf
  | channelSelected hf => exact ⟨fun _ => hi.frame (by rw [hf]; rfl), nofun, nofun⟩
  | tareFrame _ _ ho => exact ⟨nofun, fun _ => ho, nofun⟩
  | rested hf => exact ⟨fun _ => by simp [hi.rest hf, OpKind.runsFrames], nofun, nofun⟩

/-- POLLCNT is cleared at the start of a frame's ready-wait and counts only the high polls below a timeout (R31, R104). -/
theorem Row.pollCnt_bounded {p : PortIn} {d : Bool} {s t : State} (h : Row p d s t) (hi : s.Inv) :
    (t.cfg.readyTimeoutPolls = none → t.pollCnt = 0#32) ∧
      ∀ k, t.cfg.readyTimeoutPolls = some k → t.pollCnt.toNat < k := by
  cases h with
  | tare | readRaw | getWeight | rested => exact ⟨fun _ => rfl, fun k hk => (Config.timeout_of_valid hi.cfgValid hk).1⟩
  | pollCounted b _ _ hb hc =>
    refine ⟨fun hn => by simp [hb] at hn, fun k hk => ?_⟩
    obtain rfl : b = k := by simpa [hb] using hk
    simp only [BitVec.toNat_add, BitVec.toNat_ofNat]
    omega
  | _ => exact ⟨hi.pollNone, hi.pollSome⟩

/-- Every row leaves INIT_DONE 0 in a settle and 1 in the phases of a reading command (R34, R203). -/
theorem Row.initDone_fits {p : PortIn} {d : Bool} {s t : State} (h : Row p d s t) (hi : s.Inv) :
    (t.fsm = .settle → t.initDone = false) ∧ (t.fsm ≠ .idle → t.fsm ≠ .settle → t.initDone = true) := by
  cases h with
  | idle | decode | countdown => exact ⟨hi.settling, hi.settled⟩
  | illegal | notInit | settled | timeout | readRawDone | getWeightDone | tareDone => exact ⟨nofun, fun h => absurd rfl h⟩
  | init => exact ⟨fun _ => rfl, fun _ h => absurd rfl h⟩
  | tare _ _ _ hs | readRaw _ _ _ hs | getWeight _ _ _ hs => exact ⟨nofun, fun _ _ => hs⟩
  | ready hf | pollFree hf | pollCounted _ hf | pollAgain hf | sample hf | nextPulse hf | channelSelect hf
  | channelSelected hf | tareFrame hf | rested hf =>
    exact ⟨nofun, fun _ _ => hi.settled (by simp [hf]) (by simp [hf])⟩

/-- Only the four codes of R201 are written to ERR. -/
theorem Row.err_le {p : PortIn} {d : Bool} {s t : State} (h : Row p d s t) (hi : s.err.toNat ≤ 3) : t.err.toNat ≤ 3 := by
  cases h with
  | illegal | init | decode | notInit | tare | readRaw | getWeight | timeout => simp
  | _ => exact hi

/-- DONE and ERR are clear in every phase but IDLE, and never both set: acceptance clears both, and the edge that ends a
command writes one of them (R35, R36, R100). -/
theorem Row.flags_fit {p : PortIn} {d : Bool} {s t : State} (h : Row p d s t) (hi : s.Inv) :
    (t.fsm ≠ .idle → t.done = false ∧ t.err = 0#3) ∧ (t.done = true → t.err = 0#3) := by
  cases h with
  | idle | countdown => exact ⟨hi.busyClean, hi.doneClean⟩
  | illegal | notInit => exact ⟨fun hbusy => absurd rfl hbusy, nofun⟩
  | init | tare | readRaw | getWeight => exact ⟨fun _ => ⟨rfl, rfl⟩, fun _ => rfl⟩
  | decode _ hf => exact ⟨fun hbusy => absurd hf hbusy, fun _ => rfl⟩
  | settled hf | readRawDone hf | getWeightDone hf | tareDone hf =>
    exact ⟨fun hbusy => absurd rfl hbusy, fun _ => (hi.busyClean (by simp [hf])).2⟩
  | timeout _ hf => exact ⟨fun hbusy => absurd rfl hbusy, fun hd => by simp [hi.busyClean (by simp [hf])] at hd⟩
  | ready hf | pollFree hf | pollCounted _ hf | pollAgain hf | sample hf | nextPulse hf | channelSelect hf
  | channelSelected hf | tareFrame hf | rested hf => exact ⟨fun _ => hi.busyClean (by simp [hf]), hi.doneClean⟩

/-- The last frame of a TARE writes the mean of its readings, which is in the range of one (R26, R162). -/
theorem Row.tareOffset_range {p : PortIn} {d : Bool} {s t : State} (h : Row p d s t) (hi : s.Inv) :
    -2 ^ 23 ≤ signed64 t.tareOffset ∧ signed64 t.tareOffset ≤ 2 ^ 23 - 1 := by
  obtain hkeep | ⟨hf, -, ho, hc, -, -, hmean⟩ := h.tareOffset_cases
  · exact hkeep ▸ hi.offset
  · exact hmean ▸ tareMean_range_of_inv hi (by simp [hf]) ho hc

/-- While a TARE runs, TCOUNT frames are done, fewer than `N_TARE`, and TSUM is in the range of as many readings (R32). -/
structure State.TareInBounds (s : State) : Prop where
  count : s.tCount.toNat < s.cfg.nTare
  sumLow : -2 ^ 23 * (s.tCount.toNat : Int) ≤ signed64 s.tSum
  sumHigh : signed64 s.tSum ≤ (2 ^ 23 - 1) * (s.tCount.toNat : Int)

theorem State.Inv.tareInBounds {s : State} (hi : s.Inv) (hf : s.fsm ≠ .idle) (ho : s.op = .tare) : s.TareInBounds :=
  ⟨hi.tareCount hf ho, (hi.tareSum hf ho).1, (hi.tareSum hf ho).2⟩

/-- One more frame, not the last, adds one to TCOUNT and one reading to TSUM (R160). -/
theorem State.TareInBounds.afterFrame {s : State} (hi : s.TareInBounds) (hv : s.cfg.valid = true)
    (hc : s.tCount.toNat + 1 < s.cfg.nTare) (f : FSM) (n : BitVec 32) :
    State.TareInBounds { s with tSum := bits64 (tareSum s.tSum s.acc), tCount := s.tCount + 1#16, fsm := f, timer := n } := by
  obtain ⟨-, hN⟩ := Config.tareCount_of_valid hv
  obtain ⟨-, hlow, hhigh⟩ := hi
  obtain ⟨hacc1, hacc2⟩ := decode24_range s.acc
  have hcount : (s.tCount + 1#16).toNat = s.tCount.toNat + 1 := by
    simp only [BitVec.toNat_add, BitVec.toNat_ofNat]
    omega
  have hsum : signed64 (bits64 (tareSum s.tSum s.acc)) = signed64 s.tSum + decode24 s.acc :=
    signed64_bits64 _ (by unfold tareSum; omega) (by unfold tareSum; omega)
  constructor <;> simp only [hcount, hsum] <;> omega

theorem Row.tareInBounds {p : PortIn} {d : Bool} {s t : State} (h : Row p d s t) (hi : s.Inv) (hbusy : t.fsm ≠ .idle)
    (ho : t.op = .tare) : t.TareInBounds := by
  cases h with
  | idle hf | decode _ hf => exact absurd hf hbusy
  | illegal | notInit | settled | timeout | readRawDone | getWeightDone | tareDone => exact absurd rfl hbusy
  | init | readRaw | getWeight => cases ho
  | tare => exact ⟨(Config.tareCount_of_valid hi.cfgValid).1, by simp [signed64], by simp [signed64]⟩
  | countdown => exact { hi.tareInBounds hbusy ho with }
  | tareFrame hf _ _ hc => exact (hi.tareInBounds (by simp [hf]) ho).afterFrame hi.cfgValid hc _ _
  | ready hf | pollFree hf | pollCounted _ hf | pollAgain hf | sample hf | nextPulse hf | channelSelect hf
  | channelSelected hf | rested hf => exact { hi.tareInBounds (by simp [hf]) ho with }

/-! ### Every step keeps the invariant -/

/-- No row writes SYNC: the edge itself has shifted it (R115). -/
theorem Row.sync_eq {p : PortIn} {d : Bool} {s t : State} (h : Row p d s t) : t.sync = s.sync := by
  cases h <;> rfl

theorem Row.inv {p : PortIn} {d : Bool} {s t : State} (h : Row p d s t) (hi : s.Inv) : t.Inv := by
  obtain ⟨bitCnt, bitCntHigh, bitCntLow, bitCntCsel, acc⟩ := h.pulsesCounted hi.pulsesCounted
  obtain ⟨opFrame, opRest, opSettle⟩ := h.opFitsPhase hi.opFitsPhase
  obtain ⟨pollNone, pollSome⟩ := h.pollCnt_bounded hi
  obtain ⟨settling, settled⟩ := h.initDone_fits hi
  obtain ⟨busyClean, doneClean⟩ := h.flags_fit hi
  exact { bitCnt, bitCntHigh, bitCntLow, bitCntCsel, acc, opFrame, opRest, opSettle, pollNone, pollSome, settling, settled,
          busyClean, doneClean
          cfgValid := h.cfg_eq ▸ hi.cfgValid
          syncLength := by rw [h.sync_eq, h.cfg_eq, hi.syncLength]
          clock := h.clockPin_iff hi.clock
          timer := h.timer_lt hi
          errCode := h.err_le hi.errCode
          offset := h.tareOffset_range hi
          tareCount := fun hbusy ho => (h.tareInBounds hi hbusy ho).count
          tareSum := fun hbusy ho => ⟨(h.tareInBounds hi hbusy ho).sumLow, (h.tareInBounds hi hbusy ho).sumHigh⟩ }

/-- Settles O14: a reset edge gives the reset column, and a row keeps each part of the invariant. -/
theorem stepKeepsTheInvariant : Obligations.StepKeepsTheInvariant := by
  intro s t hi h
  obtain ⟨-, ⟨-, rfl⟩ | ⟨-, hrow⟩⟩ := step_cases h
  · exact hi.resetEdge
  · exact hrow.inv hi.clocked

/-! ### Some row always applies -/

/-- A timed phase goes on when its exit action does. -/
theorem State.timed_answers_next {s : State} {exit : State → Answer} (h : ∃ t, exit s = .next t) :
    ∃ t, s.timed exit = .next t := by
  unfold State.timed
  split
  · exact h
  · exact ⟨_, rfl⟩

/-- A high poll goes on: POLLCNT is below the timeout, if there is one (R104). -/
theorem poll_answers_next {s : State} (hi : s.Inv) (d : Bool) : ∃ t, poll d s = .next t := by
  cases d with
  | false => exact ⟨_, rfl⟩
  | true =>
    simp only [poll, pollHigh, if_true]
    split
    next => exact ⟨_, rfl⟩
    next k hk =>
      have := hi.pollSome k hk
      split
      · exact ⟨_, rfl⟩
      · exact ⟨_, if_pos (by omega)⟩

/-- The end of LOW goes on: BITCNT is at most 24 (R112). -/
theorem lowExit_answers_next {s : State} (hi : s.Inv) : ∃ t, lowExit s = .next t := by
  have := hi.bitCnt
  unfold lowExit
  split
  · exact ⟨_, rfl⟩
  · exact ⟨_, if_pos (by omega)⟩

/-- A frame completes when its OP is a reading command (R108). -/
theorem frameComplete_answers_next {s : State} (ho : s.op.runsFrames = true) : ∃ t, frameComplete s = .next t := by
  unfold frameComplete
  cases hop : s.op with
  | tare => exact completeTareFrame_answers_next s
  | readRaw | getWeight => exact ⟨_, rfl⟩
  | none | init => simp [hop, OpKind.runsFrames] at ho

theorem row_answers_next {s : State} (hi : s.Inv) (p : PortIn) (d : Bool) : ∃ t, row p d s = .next t := by
  unfold row
  cases hf : s.fsm with
  | idle =>
    cases p.cmdValid
    · exact ⟨s, rfl⟩
    · exact accept_answers_next p.cmd s
  | wait => exact poll_answers_next hi d
  | low => exact State.timed_answers_next (lowExit_answers_next hi)
  | cselLow => exact State.timed_answers_next (frameComplete_answers_next (hi.opFrame (by rw [hf]; rfl)))
  | settle | pollHold | high | cselHigh | rest => exact State.timed_answers_next ⟨_, rfl⟩

/-- Settles O15: a reset edge always goes on, and so does every row from a state that meets the invariant. -/
theorem invariantStatesAlwaysStep : Obligations.InvariantStatesAlwaysStep := by
  intro s hi
  cases hr : (s.portAt 0).rst with
  | true => exact ⟨_, step_reset s hi.cfgValid hr⟩
  | false =>
    rw [step_row s hi.cfgValid hr]
    exact row_answers_next hi.clocked _ _

end Sys2Proof.Machine
end

section
/-! SUPPORT. Acceptance and the transition table (40_acquisition.md R100, R112), and the synchroniser (R115). -/

namespace Sys2Proof.Machine

/-! ### The edge, and the rows of a phase -/

/-- The shift of an edge keeps the length of SYNC: `data_pin` enters in front and the oldest level leaves (R115). -/
theorem State.clocked_sync_eq_take (s : State) :
    s.clocked.sync = ((s.portAt 0).dataPin :: s.sync).take s.sync.length := by
  rw [State.clocked_sync, List.dropLast_eq_take]
  simp

/-- In IDLE an offered word is accepted. -/
theorem step_offered {s : State} (hv : s.cfg.valid = true) (hr : (s.portAt 0).rst = false) (hf : s.fsm = .idle)
    (ho : (s.portAt 0).cmdValid = true) : step s = accept (s.portAt 0).cmd s.clocked := by
  rw [step_row s hv hr]
  simp [row, hf, ho]

/-- In IDLE with nothing offered only the edge's own shift happens. -/
theorem step_notOffered {s : State} (hv : s.cfg.valid = true) (hr : (s.portAt 0).rst = false) (hf : s.fsm = .idle)
    (ho : (s.portAt 0).cmdValid = false) : step s = .next s.clocked := by
  rw [step_row s hv hr]
  simp [row, hf, ho]

theorem accept_of_cmd {w : Word} {i : Instr} (h : decodeCmd w = .cmd i) (s : State) : accept w s = exec i s := by
  simp [accept, h]

/-- An acceptance edge runs the decoded command. -/
theorem step_exec {s : State} {i : Instr} (hv : s.cfg.valid = true) (hr : (s.portAt 0).rst = false) (hf : s.fsm = .idle)
    (ho : (s.portAt 0).cmdValid = true) (hd : decodeCmd (s.portAt 0).cmd = .cmd i) : step s = exec i s.clocked :=
  (step_offered hv hr hf ho).trans (accept_of_cmd hd _)

/-- Settles O17: the acceptance edge runs `exec`, and the edge itself shifts SYNC and uses up its levels. -/
theorem stepRunsTheDecodedCommand : Obligations.StepRunsTheDecodedCommand := by
  refine fun s i hv hr ho hf hd => ⟨step_exec hv hr hf ho hd, ?_⟩
  rw [← s.clocked_sync_eq_take]
  rfl

/-! ### Acceptance (R100) -/

/-- A reading command in IDLE before a completed INIT: NOT_INIT (R203). -/
theorem State.ifSettled_of_not {s : State} (hf : s.fsm = .idle) (hs : s.initDone = false) (start : State → State) :
    s.ifSettled start = .next { s with done := false, err := 2#3 } := by
  rw [State.ifSettled, if_neg (by simp [hs])]
  exact congrArg _ (State.acceptance_raise_of_idle hf .notInit)

/-- A reading command once settled starts. -/
theorem State.ifSettled_of_settled {s : State} (hs : s.initDone = true) (start : State → State) :
    s.ifSettled start = .next (start s.acceptance) := by
  rw [State.ifSettled, if_pos hs]

theorem exec_tare_settled {s : State} (hs : s.initDone = true) :
    exec .tare s = .next (State.startFrames { s.acceptance with tCount := 0#16, tSum := 0#64 } .tare) :=
  State.ifSettled_of_settled hs fun u => State.startFrames { u with tCount := 0#16, tSum := 0#64 } .tare

theorem exec_readRaw_settled {s : State} (hs : s.initDone = true) :
    exec .readRaw s = .next (s.acceptance.startFrames .readRaw) :=
  State.ifSettled_of_settled hs fun u => u.startFrames .readRaw

theorem exec_getWeight_settled {s : State} (hs : s.initDone = true) :
    exec .getWeight s = .next (s.acceptance.startFrames .getWeight) :=
  State.ifSettled_of_settled hs fun u => u.startFrames .getWeight

theorem exec_notInit {s : State} {i : Instr} (hi : i ∈ [Instr.tare, Instr.readRaw, Instr.getWeight]) (hf : s.fsm = .idle)
    (hs : s.initDone = false) : exec i s = .next { s with done := false, err := 2#3 } := by
  simp only [List.mem_cons, List.not_mem_nil, or_false] at hi
  obtain rfl | rfl | rfl := hi <;> simp only [exec, execTare, execReadRaw, execGetWeight, State.ifSettled_of_not hf hs]

/-- The block with another word on the command port at the coming edge. -/
def State.withCmdPort (s : State) (valid : Bool) (w : Word) : State :=
  { s with edges := { s.portAt 0 with cmdValid := valid, cmd := w } :: s.edges.tail }

/-- Only the IDLE rows look at the command port. -/
theorem row_ignores_cmd {s : State} (hf : s.fsm ≠ .idle) (p : PortIn) (valid : Bool) (w : Word) (d : Bool) :
    row { p with cmdValid := valid, cmd := w } d s = row p d s := by
  unfold row
  cases hfs : s.fsm with
  | idle => exact absurd hfs hf
  | settle | wait | pollHold | high | low | cselHigh | cselLow | rest => rfl

theorem step_withCmdPort {s : State} (hf : s.fsm ≠ .idle) (valid : Bool) (w : Word) :
    step (s.withCmdPort valid w) = step s := by
  have hrow := row_ignores_cmd (s := s.clocked) hf (s.portAt 0) valid w (s.dataSync (s.portAt 0).dataPin)
  rw [step, step, tick, tick, ← hrow]
  rfl

/-- Settles O18: the IDLE rows with each command's `exec`, and the other rows do not look at the command port. -/
theorem acceptanceFollowsItsRule : Obligations.AcceptanceFollowsItsRule := by
  refine ⟨fun s hv hr hf => ⟨step_notOffered hv hr hf, fun ho => ?_⟩, fun s valid w hf => step_withCmdPort hf valid w⟩
  have hexec {i : Instr} := step_exec (i := i) hv hr hf ho
  refine ⟨illegalWordsOnlySetErr.2 s hv hr ho hf, hexec, fun m hd => ?_,
    fun i hi hd hs => ?_, fun hd hs => ?_, fun hd hs => ?_, fun hd hs => ?_⟩
  · exact hexec hd
  · exact (hexec hd).trans (exec_notInit (s := s.clocked) hi hf hs)
  · exact (hexec hd).trans (exec_readRaw_settled (s := s.clocked) hs)
  · exact (hexec hd).trans (exec_getWeight_settled (s := s.clocked) hs)
  · exact (hexec hd).trans (exec_tare_settled (s := s.clocked) hs)

/-! ### The transition table (R112) -/

/-- The action at the edge that ends a timed phase, when `data_sync` is `d`; IDLE and WAIT have none. -/
def FSM.exit (d : Bool) : FSM → State → Answer
  | .idle | .wait => .next
  | .settle => settleExit
  | .pollHold => pollHoldExit
  | .high => highExit d
  | .low => lowExit
  | .cselHigh => cselHighExit
  | .cselLow => frameComplete
  | .rest => restExit

/-- A timed phase whose TIMER is 0 takes its exit action (R30). -/
theorem row_exit {p : PortIn} {d : Bool} {s : State} (hf : s.fsm.isTimed = true) (ht : s.timer = 0#32) :
    row p d s = s.fsm.exit d s := by
  unfold row
  cases hfs : s.fsm with
  | idle | wait => simp [hfs, FSM.isTimed] at hf
  | settle | pollHold | high | low | cselHigh | cselLow | rest => exact if_pos ht

theorem step_exit {s : State} (f : FSM) (hv : s.cfg.valid = true) (hr : (s.portAt 0).rst = false) (hf : s.fsm = f)
    (hft : f.isTimed = true) (ht : s.timer = 0#32) : step s = f.exit (s.seen 0) s.clocked := by
  subst hf
  exact (step_row s hv hr).trans (row_exit (s := s.clocked) hft ht)

theorem step_poll {s : State} (hv : s.cfg.valid = true) (hr : (s.portAt 0).rst = false) (hf : s.fsm = .wait) :
    step s = poll (s.seen 0) s.clocked := by
  rw [step_row s hv hr]
  simp [row, hf]

theorem step_countdown {s : State} (hv : s.cfg.valid = true) (hr : (s.portAt 0).rst = false) (hf : s.fsm.isTimed = true)
    (ht : s.timer ≠ 0#32) : step s = .next { s.clocked with timer := s.timer - 1#32 } :=
  (step_row s hv hr).trans (row_countdown _ _ s.clocked hf ht)

theorem FSM.isTimed_of_ne {f : FSM} (h1 : f ≠ .idle) (h2 : f ≠ .wait) : f.isTimed = true := by
  cases f with
  | idle => exact absurd rfl h1
  | wait => exact absurd rfl h2
  | settle | pollHold | high | low | cselHigh | cselLow | rest => rfl

/-! The branches of the exits that have several. -/

theorem poll_high_free {s : State} (hk : s.cfg.readyTimeoutPolls = none) :
    poll true s = .next (s.enter .pollHold s.cfg.tPoll) := by
  simp [poll, pollHigh, hk]

theorem poll_high_counted {s : State} {k : Nat} (hk : s.cfg.readyTimeoutPolls = some k) (hc : s.pollCnt.toNat + 1 < k) :
    poll true s = .next ((s.withPollCnt (s.pollCnt + 1#32)).enter .pollHold s.cfg.tPoll) := by
  simp [poll, pollHigh, hk, hc]

theorem poll_high_last {s : State} {k : Nat} (hk : s.cfg.readyTimeoutPolls = some k) (hc : s.pollCnt.toNat + 1 = k) :
    poll true s = .next (s.raise .timeout) := by
  simp [poll, pollHigh, hk, hc]

theorem lowExit_pulse {s : State} (hb : s.bitCnt.toNat < 24) :
    lowExit s = .next ((s.pinWrite true).enter .high s.cfg.tHigh) := if_pos hb

theorem lowExit_csel {s : State} (hb : s.bitCnt.toNat = 24) :
    lowExit s = .next ((s.pinWrite true).enter .cselHigh s.cfg.tHigh) := by
  simp [lowExit, hb]

theorem frameComplete_readRaw {s : State} (ho : s.op = .readRaw) : frameComplete s = completeReadRaw s := by
  simp [frameComplete, ho]

theorem frameComplete_getWeight {s : State} (ho : s.op = .getWeight) : frameComplete s = completeGetWeight s := by
  simp [frameComplete, ho]

theorem frameComplete_tare_more {s : State} (ho : s.op = .tare) (hc : s.tCount.toNat + 1 < s.cfg.nTare) :
    frameComplete s = .next (State.enter { s with tSum := bits64 (tareSum s.tSum s.acc), tCount := s.tCount + 1#16 }
      .rest s.cfg.tRest) := by
  simp [frameComplete, ho, completeTareFrame, hc]

theorem frameComplete_tare_last {s : State} (ho : s.op = .tare) (hc : s.cfg.nTare ≤ s.tCount.toNat + 1) :
    frameComplete s = .next (State.finish { s with
      tSum := bits64 (tareSum s.tSum s.acc), tCount := s.tCount + 1#16,
      tareOffset := bits64 ((tareSum s.tSum s.acc).tdiv s.cfg.nTare), raw := s.acc }) := by
  rw [← tareMean_eq_tdiv]
  simp [frameComplete, ho, completeTareFrame, Nat.not_lt.2 hc]

/-- Settles O23: the row of each phase, by the branch that its conditions select. -/
theorem transitionTableRows : Obligations.TransitionTableRows := by
  intro s hv hr u d
  have hd : d = s.seen 0 := s.dataSync_eq_seen
  have hpoll (hf : s.fsm = .wait) : step s = poll d u := hd ▸ step_poll hv hr hf
  have hexit {f : FSM} (hf : s.fsm = f) (hft : f.isTimed = true) (ht : s.timer = 0#32) : step s = f.exit d u :=
    hd ▸ step_exit f hv hr hf hft ht
  refine ⟨step_notOffered hv hr, step_offered hv hr, fun h1 h2 => step_countdown hv hr (FSM.isTimed_of_ne h1 h2),
    fun hf => hexit hf rfl, ?_, ?_, ?_, ?_, fun hf => hexit hf rfl, fun hf => hexit hf rfl, ?_, ?_,
    fun hf => hexit hf rfl, ?_, ?_, ?_, ?_, fun hf => hexit hf rfl⟩
  · exact fun hf hlow => (hpoll hf).trans (by rw [hlow]; rfl)
  · exact fun hf hhigh hk => (hpoll hf).trans (hhigh ▸ poll_high_free (s := u) hk)
  · exact fun k hf hhigh hk hc => (hpoll hf).trans (hhigh ▸ poll_high_counted (s := u) hk hc)
  · exact fun k hf hhigh hk hc => (hpoll hf).trans (hhigh ▸ poll_high_last (s := u) hk hc)
  · exact fun hf ht hb => (hexit hf rfl ht).trans (lowExit_pulse (s := u) hb)
  · exact fun hf ht hb => (hexit hf rfl ht).trans (lowExit_csel (s := u) hb)
  · exact fun hf ht ho => (hexit hf rfl ht).trans (frameComplete_readRaw (s := u) ho)
  · exact fun hf ht ho => (hexit hf rfl ht).trans (frameComplete_getWeight (s := u) ho)
  · exact fun hf ht ho hc => (hexit hf rfl ht).trans (frameComplete_tare_more (s := u) ho hc)
  · exact fun hf ht ho hc => (hexit hf rfl ht).trans (frameComplete_tare_last (s := u) ho hc)

/-! ### The synchroniser (R115) -/

/-- No row touches the environment. -/
theorem Row.portAt_eq {p : PortIn} {d : Bool} {s t : State} (h : Row p d s t) (j : Nat) : t.portAt j = s.portAt j := by
  cases h <;> rfl

theorem Row.seen_eq {p : PortIn} {d : Bool} {s t : State} (h : Row p d s t) (j : Nat) : t.seen j = s.seen j := by
  cases h <;> rfl

/-- Without reset every edge brings the levels seen one edge nearer, whatever its row does. -/
theorem runFor_seen {s t : State} {n : Nat} (hr : s.noReset n) (h : runFor n s = .next t) (j : Nat) :
    t.seen j = s.seen (n + j) := by
  induction n generalizing s with
  | zero =>
    cases h
    rw [Nat.zero_add]
  | succ n ih =>
    have hrst : (s.portAt 0).rst = false := hr 0 (Nat.succ_pos n)
    cases hs : step s with
    | fault | refused => simp [runFor, hs] at h
    | next u =>
      obtain ⟨-, ⟨hreset, -⟩ | ⟨-, hrow⟩⟩ := step_cases hs
      · simp [hrst] at hreset
      · have hu : u.noReset n := fun i hi => by
          rw [hrow.portAt_eq, State.portAt_clocked]
          exact hr (i + 1) (by omega)
        rw [runFor_succ_of_next n hs] at h
        rw [ih hu h, hrow.seen_eq, State.seen_clocked, Nat.add_right_comm]

/-- Past the levels that SYNC holds already, an edge sees the pin as it was `SYNC_STAGES` edges before (R115). -/
theorem State.seen_of_le {s : State} {j : Nat} (h : s.sync.length ≤ j) :
    s.seen j = (s.portAt (j - s.sync.length)).dataPin := if_neg (by omega)

/-- Settles O24: the edge shifts SYNC and no row writes it, and a run without reset keeps the order of the levels seen. -/
theorem synchroniserDelaysThePin : Obligations.SynchroniserDelaysThePin := by
  refine ⟨fun s t hr h => ?_, fun s t hr h => ?_, fun s b => ⟨fun hs => ?_, fun hs => ?_⟩, fun s t n hlen hn hr h => ?_⟩
  · obtain ⟨-, ⟨hreset, -⟩ | ⟨-, hrow⟩⟩ := step_cases h
    · simp [hr] at hreset
    · exact hrow.sync_eq.trans s.clocked_sync_eq_take
  · obtain ⟨-, ⟨-, rfl⟩ | ⟨hlive, -⟩⟩ := step_cases h
    · exact s.resetEdge_sync
    · simp [hr] at hlive
  · simp [State.dataSync, hs]
  · rw [State.dataSync, List.getLastD_eq_getLast?, List.getLast?_eq_getElem?, List.getElem?_eq_getElem (by omega)]
    rfl
  · rw [State.dataSync_eq_seen, runFor_seen hr h, Nat.add_zero, ← hlen]
    exact State.seen_of_le (by omega)

end Sys2Proof.Machine
end

section
/-! SUPPORT. Runs through a timed phase, the ready-wait and a frame (40_acquisition.md R101 to R113, R116). -/

namespace Sys2Proof.Machine

/-! ### No reset along a run -/

theorem State.rst_clockedBy {s : State} {n j : Nat} (hr : s.noReset n) (hj : j < n) :
    ((s.clockedBy j).portAt 0).rst = false := by
  rw [State.portAt_clockedBy]
  exact hr j hj

theorem State.noReset_clocked {s : State} {n : Nat} (hr : s.noReset (1 + n)) : s.clocked.noReset n := by
  rw [← State.clockedBy_one]
  exact State.noReset_clockedBy hr

/-! ### A timed phase, tick by tick (R30) -/

/-- Before its last tick a timed phase counts down. -/
theorem step_within (s : State) (f : FSM) (d : Nat) (hv : s.cfg.valid = true) (hft : f.isTimed = true) (h1 : 1 < d)
    (h2 : d ≤ 2 ^ 32) (hr : (s.portAt 0).rst = false) : step (s.enter f d) = .next (s.clocked.enter f (d - 1)) := by
  have hload : (BitVec.ofNat 32 (d - 1)).toNat = d - 1 := timerLoad_toNat (by omega) h2
  have hne : BitVec.ofNat 32 (d - 1) ≠ 0#32 := fun h0 => by
    rw [h0] at hload
    simp at hload
    omega
  have hsub : BitVec.ofNat 32 (d - 1) - 1#32 = BitVec.ofNat 32 (d - 1 - 1) := by
    apply BitVec.eq_of_toNat_eq
    rw [BitVec.toNat_sub, hload, BitVec.toNat_ofNat, BitVec.toNat_ofNat]
    omega
  rw [step_countdown (s := s.enter f d) hv hr hft hne, State.enter_timer, hsub]
  rfl

/-- `j` ticks into a phase of `d` ticks, `d - j` are left and nothing else has moved. -/
theorem runFor_within (s : State) (f : FSM) (d j : Nat) (hv : s.cfg.valid = true) (hft : f.isTimed = true) (hj : j < d)
    (h2 : d ≤ 2 ^ 32) (hr : s.noReset j) : runFor j (s.enter f d) = .next ((s.clockedBy j).enter f (d - j)) := by
  induction j with
  | zero => rfl
  | succ j ih =>
    rw [runFor_add 1 (ih (by omega) (State.noReset_mono hr (by omega))), runFor_one,
      step_within (s.clockedBy j) f (d - j) hv hft (by omega) (by omega) (State.rst_clockedBy hr (Nat.lt_succ_self j)),
      ← State.clockedBy_succ, Nat.sub_sub]

/-- A phase of `d` ticks from its entry to its exit action. -/
theorem runFor_phase (s : State) (f : FSM) (d : Nat) (hv : s.cfg.valid = true) (hft : f.isTimed = true) (h1 : 1 ≤ d)
    (h2 : d ≤ 2 ^ 32) (hr : s.noReset d) :
    runFor d (s.enter f d) = f.exit (s.seen (d - 1)) ((s.clockedBy d).enter f 1) := by
  rw [runFor_entered s f d hv hft h1 h2 hr]
  exact row_exit (s := (s.clockedBy d).enter f 1) hft rfl

/-! ### INIT (R101) -/

/-- What a command that has ended without error shows: INIT_DONE and DONE, no error, not busy (R24). -/
theorem State.status_of_done {s : State} (hf : s.fsm = .idle) (hi : s.initDone = true) (hd : s.done = true)
    (he : s.err = 0#3) : s.status = 0x00000006#32 := by
  simp [State.status, State.busy, hf, hi, hd, he]

/-- Settles O20: the settle is one timed phase, entered at acceptance, whose exit sets INIT_DONE and DONE. -/
theorem initSettlesForItsTicks : Obligations.InitSettlesForItsTicks := by
  refine fun s hv _ => ⟨_, rfl, rfl, fun hr => ?_⟩
  obtain ⟨-, -, -, hS, -⟩ := Config.ticks_of_valid hv
  have h1 := s.cfg.one_le_tSettle
  refine ⟨fun j hj => ?_, ?_⟩
  · exact ⟨_, runFor_within { s.acceptance with op := .init, initDone := false } .settle _ j hv rfl hj hS
      (State.noReset_mono (s := s) hr hj.le), rfl, rfl, rfl, rfl, rfl, rfl⟩
  · exact ⟨_, runFor_phase { s.acceptance with op := .init, initDone := false } .settle _ hv rfl h1 hS hr,
      State.status_of_done rfl rfl rfl rfl, rfl⟩

/-! ### The ready-wait (R103, R104, R116) -/

/-- A high poll that is not the last allowed starts a hold (R103). -/
theorem step_highPoll {s : State} (hv : s.cfg.valid = true) (hf : s.fsm = .wait) (hs : s.seen 0 = true)
    (ha : ∀ b, s.cfg.readyTimeoutPolls = some b → s.pollCnt.toNat + 1 < b) (hr : (s.portAt 0).rst = false) :
    step s = .next ((s.clocked.withPollCnt (pollCntAfter s 1)).enter .pollHold s.cfg.tPoll) := by
  rw [step_poll hv hr hf, hs]
  cases hk : s.cfg.readyTimeoutPolls with
  | none =>
    have hkeep : pollCntAfter s 1 = s.pollCnt := if_pos hk
    rw [hkeep]
    exact poll_high_free (s := s.clocked) hk
  | some k =>
    have hcount : pollCntAfter s 1 = s.pollCnt + 1#32 := if_neg (by simp [hk])
    rw [hcount]
    exact poll_high_counted (s := s.clocked) hk (ha k hk)

/-- One poll more takes its own tick and a hold. -/
theorem pollTicks_succ (c : Config) (k : Nat) : c.pollTicks (k + 1) = c.pollTicks k + (1 + c.tPoll) := Nat.succ_mul ..

/-- A high poll that is not the last allowed adds one to POLLCNT where there is a timeout (R31). -/
theorem pollCntAfter_one_toNat {s : State} {b : Nat} (hv : s.cfg.valid = true) (hb : s.cfg.readyTimeoutPolls = some b)
    (hlt : s.pollCnt.toNat + 1 < b) : (pollCntAfter s 1).toNat = s.pollCnt.toNat + 1 := by
  have := Config.timeout_of_valid hv hb
  simp [pollCntAfter, hb]
  omega

/-- The phases of the ready-wait. -/
def FSM.readyWait (f : FSM) : Prop := f = .wait ∨ f = .pollHold

/-- As long as the polls read high and the timeout is not reached, `n` ticks of the ready-wait move POLLCNT, FSM and TIMER
alone, and do not leave it. -/
theorem runFor_readyWait (n : Nat) (s : State) (hv : s.cfg.valid = true) (hf : s.fsm = .wait)
    (hs : ∀ j, s.cfg.pollTicks j < n → s.seen (s.cfg.pollTicks j) = true)
    (ha : ∀ b, s.cfg.readyTimeoutPolls = some b → ∀ j, s.cfg.pollTicks j < n → s.pollCnt.toNat + j + 1 < b)
    (hr : s.noReset n) :
    ∃ f w c, FSM.readyWait f ∧ runFor n s = .next (((s.clockedBy n).withPollCnt c).enter f w) := by
  obtain ⟨hP, -, -, -, -⟩ := Config.ticks_of_valid hv
  induction n using Nat.strong_induction_on generalizing s with
  | _ n ih =>
    rcases Nat.eq_zero_or_pos n with rfl | hn
    · exact ⟨.wait, s.timer.toNat + 1, s.pollCnt, .inl rfl, congrArg _ (s.eq_enter_wait hf)⟩
    have h0 : s.cfg.pollTicks 0 = 0 := Nat.zero_mul _
    have hseen : s.seen 0 = true := h0 ▸ hs 0 (by omega)
    have hallowed : ∀ b, s.cfg.readyTimeoutPolls = some b → s.pollCnt.toNat + 1 < b := fun b hb => ha b hb 0 (by omega)
    by_cases hhold : n ≤ s.cfg.tPoll
    · obtain ⟨i, rfl⟩ : ∃ i, n = 1 + i := ⟨n - 1, by omega⟩
      refine ⟨.pollHold, s.cfg.tPoll - i, pollCntAfter s 1, .inr rfl, ?_⟩
      rw [runFor_add i ((runFor_one s).trans (step_highPoll hv hf hseen hallowed (hr 0 hn))),
        runFor_within (s.clocked.withPollCnt (pollCntAfter s 1)) .pollHold _ i hv rfl (by omega) hP
          (State.noReset_clocked hr),
        State.withPollCnt_clockedBy, State.clocked_clockedBy, Nat.add_comm]
    · obtain ⟨i, rfl⟩ : ∃ i, n = 1 + s.cfg.tPoll + i := ⟨n - (1 + s.cfg.tPoll), by omega⟩
      have hnext {j : Nat} (hj : s.cfg.pollTicks j < i) : s.cfg.pollTicks (j + 1) < 1 + s.cfg.tPoll + i := by
        rw [pollTicks_succ]
        omega
      have hone := runFor_highPoll s hv hf hseen hallowed (State.noReset_mono hr (by omega))
      obtain ⟨f, w, c, hwait, hrun⟩ := ih i (by omega)
        (((s.clockedBy (1 + s.cfg.tPoll)).withPollCnt (pollCntAfter s 1)).enter .wait 1) hv rfl
        (fun j hj => by simpa [State.seen_clockedBy, pollTicks_succ, Nat.add_comm] using hs (j + 1) (hnext hj))
        (fun b hb j hj => by
          have hlt := ha b hb (j + 1) (hnext hj)
          simp only [State.enter_pollCnt, State.withPollCnt_pollCnt, pollCntAfter_one_toNat hv hb (hallowed b hb)]
          omega)
        (State.noReset_clockedBy hr) hP
      refine ⟨f, w, c, hwait, (runFor_add i hone).trans (hrun.trans ?_)⟩
      simp [State.clockedBy_add]

theorem State.busy_of_readyWait {s : State} (h : FSM.readyWait s.fsm) : s.busy = true := by
  obtain h | h := h <;> simp [State.busy, h]

/-- Settles O30: without a timeout the ready-wait is left by a low poll alone. -/
theorem neverReadyBlocksForEver : Obligations.NeverReadyBlocksForEver := by
  intro s n hv hf hk hs hr
  obtain ⟨f, w, c, hwait, hrun⟩ := runFor_readyWait n s hv hf hs (fun b hb => by simp [hk] at hb) hr
  exact ⟨_, hrun, State.busy_of_readyWait hwait, rfl, rfl, rfl, rfl⟩

/-- The last poll allowed, read high, raises TIMEOUT; before it the ready-wait has moved POLLCNT and TIMER alone (R104). -/
theorem runFor_timeout (s : State) (bound : Nat) (hv : s.cfg.valid = true) (hf : s.fsm = .wait) (h0 : s.pollCnt = 0#32)
    (hc : s.convTimeout 0 bound) (hr : s.noReset (s.cfg.timeoutTicks bound)) :
    ∃ w, runFor (s.cfg.timeoutTicks bound) s =
      .next ((((s.clockedBy (s.cfg.timeoutTicks bound)).withPollCnt (pollCntAfter s (bound - 1))).enter .wait w).raise
        .timeout) := by
  obtain ⟨hk, hs⟩ := hc
  simp only [Nat.zero_add] at hs
  have hbound := Config.timeout_of_valid hv hk
  rw [Config.timeoutTicks] at hr ⊢
  obtain ⟨w, hpolls⟩ := runFor_highPolls s hv hf h0 (bound - 1) (fun j hj => hs j (by omega))
    (fun b hb => by
      obtain rfl : bound = b := by simpa [hk] using hb
      omega)
    (State.noReset_mono hr (by omega))
  refine ⟨w, ?_⟩
  have hcount := pollCntAfter_toNat s hv h0 (bound - 1) bound hk (by omega)
  rw [runFor_add 1 hpolls, runFor_one, step_poll (by simpa using hv)
    (by simpa using State.rst_clockedBy hr (Nat.lt_succ_self _)) rfl]
  simp only [State.enter_seen, State.withPollCnt_seen, State.seen_clockedBy, Nat.add_zero, hs (bound - 1) (by omega)]
  rw [poll_high_last (k := bound) (by simpa using hk) (by simp [hcount]; omega), State.clockedBy_succ]
  rfl

/-- Settles O29: the ready-wait up to its last poll, and the TIMEOUT there. -/
theorem readyWaitTimesOut : Obligations.ReadyWaitTimesOut := by
  intro s bound hv hf h0 hd hc hr
  constructor
  · intro j hj
    have hlast : ∀ i, s.cfg.pollTicks i < j → i + 1 < bound := fun i hi => by
      rw [Config.timeoutTicks] at hj
      have hlt : s.cfg.pollTicks i < s.cfg.pollTicks (bound - 1) := by omega
      have := Nat.lt_of_mul_lt_mul_right hlt
      omega
    obtain ⟨f, w, c, hwait, hrun⟩ := runFor_readyWait j s hv hf
      (fun i hi => by simpa using hc.2 i (by have := hlast i hi; omega))
      (fun b hb i hi => by
        obtain rfl : bound = b := by simpa [hc.1] using hb
        simpa [h0] using hlast i hi)
      (State.noReset_mono hr hj.le)
    exact ⟨_, hrun, State.busy_of_readyWait hwait, rfl⟩
  · obtain ⟨w, hrun⟩ := runFor_timeout s bound hv hf h0 hc hr
    exact ⟨_, hrun, rfl, rfl, hd, rfl, rfl, rfl, rfl, rfl, rfl, rfl, rfl, rfl, rfl⟩

/-! ### READ_RAW (R111) -/

/-- Settles O33: READ_RAW's frame and its completion action, or the TIMEOUT of its ready-wait. -/
theorem readRawReadsOneFrame : Obligations.ReadRawReadsOneFrame := by
  refine fun s hv hf => ⟨exec_notInit (by simp) hf, fun hs => ⟨_, exec_readRaw_settled hs, rfl, ?_, ?_⟩⟩
  · intro k v hc ha hr
    have hrun := (runFor_frame (s.acceptance.startFrames .readRaw) k v hv rfl rfl hc ha hr).trans (frameComplete_readRaw rfl)
    exact ⟨_, hrun, rfl, rfl, rfl, rfl, bits64_decode24 v, State.status_of_done rfl hs rfl rfl, rfl, hs, rfl, rfl, rfl⟩
  · intro bound hc hr
    obtain ⟨w, hrun⟩ := runFor_timeout (s.acceptance.startFrames .readRaw) bound hv rfl rfl hc hr
    exact ⟨_, hrun, rfl, rfl, rfl, rfl, rfl, rfl, hs, rfl, rfl, rfl⟩

/-! ### ACC as a binary number (R110) -/

/-- 24 levels, the first highest, are the bits of a sample. -/
theorem exists_raw_of_bits (b : Nat → Bool) : ∃ v : Raw, ∀ i < 24, b i = v.getLsbD (23 - i) := by
  refine ⟨BitVec.ofFnLE fun j : Fin 24 => b (23 - j), fun i hi => ?_⟩
  rw [BitVec.getLsbD_ofFnLE, dif_pos (by omega)]
  exact congrArg b (by simp; omega)

/-- A number below `2^n` is the sum of its binary digits. -/
theorem mod_two_pow_eq_sum (x n : Nat) : x % 2 ^ n = ∑ i ∈ Finset.range n, (x.testBit i).toNat * 2 ^ i := by
  induction n with
  | zero => simp [Nat.mod_one]
  | succ n ih => rw [Finset.sum_range_succ, ← ih, Nat.mod_pow_succ, Nat.toNat_testBit, Nat.mul_comm]

theorem raw_toNat_eq_sum (v : Raw) : v.toNat = ∑ i ∈ Finset.range 24, (v.getLsbD (23 - i)).toNat * 2 ^ (23 - i) := by
  have hsum := mod_two_pow_eq_sum v.toNat 24
  rw [Nat.mod_eq_of_lt v.isLt] at hsum
  rw [hsum, ← Finset.sum_range_reflect]
  rfl

/-- What every completion of a frame leaves: ACC and the clock pin as they were, and, but for a TARE, ACC in RAW (R108). -/
theorem frameComplete_keeps {s : State} (ho : s.op.runsFrames = true) :
    ∃ t, frameComplete s = .next t ∧ t.acc = s.acc ∧ t.clockPin = s.clockPin ∧ (s.op ≠ .tare → t.raw = s.acc) := by
  cases hop : s.op with
  | none | init => simp [hop, OpKind.runsFrames] at ho
  | readRaw => exact ⟨_, frameComplete_readRaw hop, rfl, rfl, fun _ => rfl⟩
  | getWeight => exact ⟨_, frameComplete_getWeight hop, rfl, rfl, fun _ => rfl⟩
  | tare =>
    by_cases hc : s.tCount.toNat + 1 < s.cfg.nTare
    · exact ⟨_, frameComplete_tare_more hop hc, rfl, rfl, fun h => absurd rfl h⟩
    · exact ⟨_, frameComplete_tare_last hop (by omega), rfl, rfl, fun h => absurd rfl h⟩

/-- Settles O26: whatever 24 levels are sampled are the bits of some sample, which ends in ACC. -/
theorem rawSampleIsMsbFirst : Obligations.RawSampleIsMsbFirst := by
  intro s k hv hf h0 ho ha hhigh hready hr
  obtain ⟨v, hbits⟩ := exists_raw_of_bits fun i => s.seen (s.cfg.pollTicks k + s.cfg.tHigh + i * s.cfg.pulseTicks)
  have hc : s.convFrame 0 k v := by
    simp only [State.convFrame, Nat.zero_add]
    exact ⟨hhigh, hready, hbits⟩
  obtain ⟨t, hdone, hacc, -, hraw⟩ := frameComplete_keeps (s := frameEnd s k v) ho
  have hv24 : t.acc = v := hacc
  refine ⟨t, (runFor_frame s k v hv hf h0 hc ha hr).trans hdone, ?_, fun htare => (hraw htare).trans hacc.symm⟩
  rw [hv24, raw_toNat_eq_sum]
  exact Finset.sum_congr rfl fun i hi => by rw [hbits i (Finset.mem_range.1 hi)]

end Sys2Proof.Machine
end

section
/-! SUPPORT. The pin events of a frame (40_acquisition.md R109), phase by phase. -/

namespace Sys2Proof.Machine

/-! ### Traces -/

/-- Traces of runs put end to end. -/
theorem pinTrace_add {s t : State} {m : Nat} (o n : Nat) (h : runFor m s = .next t) :
    pinTrace o (m + n) s = pinTrace o m s ++ pinTrace (o + m) n t := by
  induction m generalizing s o with
  | zero =>
    cases h
    simp [pinTrace]
  | succ m ih =>
    rw [Nat.add_right_comm]
    cases hs : step s with
    | fault | refused => simp [runFor, hs] at h
    | next u =>
      rw [runFor_succ_of_next m hs] at h
      simp only [pinTrace, hs, ih (o + 1) h, List.append_assoc, Nat.add_assoc, Nat.add_comm 1 m]

theorem pinTrace_one {s t : State} (o : Nat) (h : step s = .next t) :
    pinTrace o 1 s = (eventsAt s t).map fun e => (o, e) := by
  simp [pinTrace, h]

/-- The event of the clock between two levels. -/
def clockEvents : Bool → Bool → List PinEvent
  | false, true => [.rise]
  | true, false => [.fall]
  | false, false | true, true => []

@[simp] theorem clockEvents_same (l : Bool) : clockEvents l l = [] := by
  cases l <;> rfl

@[simp] theorem clockEvents_rise : clockEvents false true = [.rise] := rfl

@[simp] theorem clockEvents_fall : clockEvents true false = [.fall] := rfl

/-- Without reset the events of an edge are the read of the pin in WAIT and at the end of HIGH, and the change of the
clock. -/
theorem eventsAt_live {s : State} (t : State) (hr : (s.portAt 0).rst = false) :
    eventsAt s t =
      (if s.fsm = .wait then [PinEvent.poll (s.seen 0)] else []) ++
      (if s.fsm = .high ∧ s.timer = 0#32 then [PinEvent.sample (s.seen 0)] else []) ++ clockEvents s.clockPin t.clockPin := by
  simp only [eventsAt, hr, State.dataSync_eq_seen, List.append_assoc]
  cases s.clockPin <;> cases t.clockPin <;> simp

/-- Before its last tick a timed phase makes no pin event. -/
theorem pinTrace_within (o : Nat) (s : State) (f : FSM) (d j : Nat) (hv : s.cfg.valid = true) (hft : f.isTimed = true)
    (hj : j < d) (h2 : d ≤ 2 ^ 32) (hr : s.noReset j) : pinTrace o j (s.enter f d) = [] := by
  induction j with
  | zero => rfl
  | succ j ih =>
    have hrst := State.rst_clockedBy hr (Nat.lt_succ_self j)
    have hr' := State.noReset_mono hr (Nat.le_succ j)
    have hwait : f ≠ .wait := fun h => by simp [h, FSM.isTimed] at hft
    have htimer : BitVec.ofNat 32 (d - j - 1) ≠ 0#32 := fun h => by
      have := congrArg BitVec.toNat h
      rw [BitVec.toNat_ofNat, BitVec.toNat_ofNat] at this
      omega
    rw [pinTrace_add o 1 (runFor_within s f d j hv hft (by omega) h2 hr'), ih (by omega) hr',
      pinTrace_one _ (step_within (s.clockedBy j) f (d - j) hv hft (by omega) (by omega) hrst),
      eventsAt_live (s := (s.clockedBy j).enter f (d - j)) _ hrst]
    simp [hwait, htimer]

/-- A timed phase makes its pin events at its last tick. -/
theorem pinTrace_phase {t : State} (o : Nat) (s : State) (f : FSM) (d : Nat) (hv : s.cfg.valid = true)
    (hft : f.isTimed = true) (h1 : 1 ≤ d) (h2 : d ≤ 2 ^ 32) (hr : s.noReset d) (h : runFor d (s.enter f d) = .next t) :
    pinTrace o d (s.enter f d) =
      ((if f = .high then [PinEvent.sample (s.seen (d - 1))] else []) ++ clockEvents s.clockPin t.clockPin).map
        fun e => (o + (d - 1), e) := by
  obtain ⟨n, rfl⟩ : ∃ n, d = n + 1 := ⟨d - 1, by omega⟩
  have hr' := State.noReset_mono hr (Nat.le_succ n)
  have hrun := runFor_within s f (n + 1) n hv hft (Nat.lt_succ_self n) h2 hr'
  have hrst := State.rst_clockedBy hr (Nat.lt_succ_self n)
  have hwait : f ≠ .wait := fun h => by simp [h, FSM.isTimed] at hft
  have hlast : step ((s.clockedBy n).enter f (n + 1 - n)) = .next t := by rw [← runFor_one, ← runFor_add 1 hrun, h]
  rw [pinTrace_add o 1 hrun, pinTrace_within o s f (n + 1) n hv hft (Nat.lt_succ_self n) h2 hr', pinTrace_one _ hlast,
    eventsAt_live (s := (s.clockedBy n).enter f (n + 1 - n)) _ hrst]
  simp [hwait, State.seen_clockedBy]

/-! ### A data pulse (R105, R106) -/

theorem runFor_high (s : State) (hv : s.cfg.valid = true) (hr : s.noReset s.cfg.tHigh) :
    runFor s.cfg.tHigh ((s.pinWrite true).enter .high s.cfg.tHigh) =
      .next ((((s.clockedBy s.cfg.tHigh).withAcc (shiftIn s.acc (s.seen (s.cfg.tHigh - 1))) (s.bitCnt + 1#5)).pinWrite
        false).enter .low s.cfg.tLow) :=
  runFor_phase (s.pinWrite true) .high _ hv rfl s.cfg.one_le_tHigh (Config.ticks_of_valid hv).2.1 hr

/-- One data pulse: sampled at its falling edge, and then the next pulse, or the channel-select one, rises. -/
theorem pinTrace_pulse (o : Nat) (s : State) (hv : s.cfg.valid = true) (hb : s.bitCnt.toNat < 24)
    (hr : s.noReset s.cfg.pulseTicks) :
    pinTrace o s.cfg.pulseTicks ((s.pinWrite true).enter .high s.cfg.tHigh) =
      [(o + (s.cfg.tHigh - 1), .sample (s.seen (s.cfg.tHigh - 1))), (o + (s.cfg.tHigh - 1), .fall),
        (o + (s.cfg.pulseTicks - 1), .rise)] := by
  obtain ⟨-, hH, hL, -, -⟩ := Config.ticks_of_valid hv
  have h1 := s.cfg.one_le_tHigh
  have h2 := s.cfg.one_le_tLow
  have hrH : s.noReset s.cfg.tHigh := State.noReset_mono hr (Nat.le_add_right ..)
  have hhigh := runFor_high s hv hrH
  have hpulse := runFor_pulse s hv hb hr
  rw [Config.pulseTicks, runFor_add _ hhigh] at hpulse
  rw [Config.pulseTicks, pinTrace_add o _ hhigh, pinTrace_phase o (s.pinWrite true) .high _ hv rfl h1 hH hrH hhigh,
    pinTrace_phase _ (((s.clockedBy s.cfg.tHigh).withAcc (shiftIn s.acc (s.seen (s.cfg.tHigh - 1)))
      (s.bitCnt + 1#5)).pinWrite false) .low _ hv rfl h2 hL (State.noReset_clockedBy (s := s) hr) hpulse]
  simp
  omega

/-- The events of data pulse `i`, counted from a frame's ready poll at tick `r` (R109, R113). -/
def pulseEvents (c : Config) (r : Nat) (v : Raw) (i : Nat) : List (Nat × PinEvent) :=
  [(r + c.tHigh + i * c.pulseTicks, .sample (v.getLsbD (23 - i))), (r + c.tHigh + i * c.pulseTicks, .fall),
    (r + (i + 1) * c.pulseTicks, .rise)]

theorem afterPulses_zero (s : State) (v : Raw) :
    afterPulses s v 0 = ((s.withAcc 0#24 0#5).pinWrite true).enter .high s.cfg.tHigh := by
  simp [afterPulses, BitVec.ushiftRight_eq_zero (x := v) (n := 24) le_rfl]

/-- The data pulses of a frame whose ready poll is at tick `r`, one after the other. -/
theorem pinTrace_pulses (r : Nat) (s : State) (v : Raw) (hv : s.cfg.valid = true) (n : Nat) (hn : n ≤ 24)
    (hr : s.noReset (n * s.cfg.pulseTicks))
    (hs : ∀ i < n, s.seen (s.cfg.tHigh - 1 + i * s.cfg.pulseTicks) = v.getLsbD (23 - i)) :
    pinTrace (r + 1) (n * s.cfg.pulseTicks) (afterPulses s v 0) =
      (List.range n).flatMap (pulseEvents s.cfg r v) := by
  induction n with
  | zero => simp [pinTrace]
  | succ n ih =>
    have hr' := State.noReset_mono hr (Nat.mul_le_mul_right _ (Nat.le_succ n))
    have hs' : ∀ i < n, s.seen (s.cfg.tHigh - 1 + i * s.cfg.pulseTicks) = v.getLsbD (23 - i) := fun i hi => hs i (by omega)
    have hbn : (BitVec.ofNat 5 n).toNat = n := by rw [BitVec.toNat_ofNat]; omega
    have hpulse := pinTrace_pulse (r + 1 + n * s.cfg.pulseTicks)
      ((s.clockedBy (n * s.cfg.pulseTicks)).withAcc (v >>> (24 - n)) (BitVec.ofNat 5 n)) hv
      (by simp only [State.withAcc_bitCnt, hbn]; omega)
      (State.noReset_clockedBy (s := s) (by rwa [Nat.succ_mul] at hr))
    have hstart : afterPulses s v n =
        (((s.clockedBy (n * s.cfg.pulseTicks)).withAcc (v >>> (24 - n)) (BitVec.ofNat 5 n)).pinWrite true).enter .high
          s.cfg.tHigh := by
      rw [afterPulses, if_pos (by omega)]
    have h1 := s.cfg.one_le_tHigh
    simp only [State.withAcc_cfg, State.clockedBy_cfg, State.withAcc_seen, State.seen_clockedBy,
      Nat.add_comm (n * s.cfg.pulseTicks) (s.cfg.tHigh - 1), hs n (Nat.lt_succ_self n)] at hpulse
    rw [Nat.succ_mul, pinTrace_add _ _ (runFor_pulses s v hv n (by omega) hr' hs'), ih (by omega) hr' hs',
      List.range_succ, List.flatMap_append, hstart, hpulse]
    have hperiod : 1 ≤ s.cfg.pulseTicks := by rw [Config.pulseTicks]; omega
    simp [pulseEvents, Nat.succ_mul]
    omega

/-! ### The channel-select pulse (R107) -/

theorem runFor_cselHigh (s : State) (hv : s.cfg.valid = true) (hr : s.noReset s.cfg.tHigh) :
    runFor s.cfg.tHigh ((s.pinWrite true).enter .cselHigh s.cfg.tHigh) =
      .next (((s.clockedBy s.cfg.tHigh).pinWrite false).enter .cselLow s.cfg.tLow) :=
  runFor_phase (s.pinWrite true) .cselHigh _ hv rfl s.cfg.one_le_tHigh (Config.ticks_of_valid hv).2.1 hr

/-- The channel-select pulse falls without a sample, and the completion leaves the clock low. -/
theorem pinTrace_channelSelect (o : Nat) (s : State) (hv : s.cfg.valid = true) (ho : s.op.runsFrames = true)
    (hr : s.noReset s.cfg.pulseTicks) :
    pinTrace o s.cfg.pulseTicks ((s.pinWrite true).enter .cselHigh s.cfg.tHigh) = [(o + (s.cfg.tHigh - 1), .fall)] := by
  obtain ⟨-, hH, hL, -, -⟩ := Config.ticks_of_valid hv
  have h1 := s.cfg.one_le_tHigh
  have h2 := s.cfg.one_le_tLow
  have hrH : s.noReset s.cfg.tHigh := State.noReset_mono hr (Nat.le_add_right ..)
  have hrL := State.noReset_clockedBy hr
  have hhigh := runFor_cselHigh s hv hrH
  obtain ⟨t, hdone, -, hclock, -⟩ := frameComplete_keeps
    (s := (((s.clockedBy s.cfg.tHigh).pinWrite false).clockedBy s.cfg.tLow).enter .cselLow 1) ho
  have hlow := (runFor_phase ((s.clockedBy s.cfg.tHigh).pinWrite false) .cselLow _ hv rfl h2 hL hrL).trans hdone
  rw [Config.pulseTicks, pinTrace_add o _ hhigh, pinTrace_phase o (s.pinWrite true) .cselHigh _ hv rfl h1 hH hrH hhigh,
    pinTrace_phase _ ((s.clockedBy s.cfg.tHigh).pinWrite false) .cselLow _ hv rfl h2 hL hrL hlow]
  simp [hclock]

/-! ### The polls (R103) -/

/-- A high poll and its hold read the pin once and leave the clock alone. -/
theorem pinTrace_highPoll (o : Nat) (s : State) (hv : s.cfg.valid = true) (hf : s.fsm = .wait) (hs : s.seen 0 = true)
    (ha : ∀ b, s.cfg.readyTimeoutPolls = some b → s.pollCnt.toNat + 1 < b) (hr : s.noReset (1 + s.cfg.tPoll)) :
    pinTrace o (1 + s.cfg.tPoll) s = [(o, .poll true)] := by
  obtain ⟨hP, -, -, -, -⟩ := Config.ticks_of_valid hv
  have hrst := hr 0 (by omega)
  have hpoll := step_highPoll hv hf hs ha hrst
  have hhold := State.noReset_clocked hr
  have hrun := runFor_phase (s.clocked.withPollCnt (pollCntAfter s 1)) .pollHold _ hv rfl s.cfg.one_le_tPoll hP hhold
  rw [pinTrace_add o _ ((runFor_one s).trans hpoll), pinTrace_one o hpoll, eventsAt_live _ hrst,
    pinTrace_phase _ (s.clocked.withPollCnt (pollCntAfter s 1)) .pollHold _ hv rfl s.cfg.one_le_tPoll hP hhold hrun]
  simp [hf, hs]

theorem pinTrace_highPolls (o : Nat) (s : State) (hv : s.cfg.valid = true) (hf : s.fsm = .wait) (h0 : s.pollCnt = 0#32)
    (k : Nat) (hs : ∀ j < k, s.seen (s.cfg.pollTicks j) = true) (ha : s.cfg.pollsAllowed k)
    (hr : s.noReset (s.cfg.pollTicks k)) :
    pinTrace o (s.cfg.pollTicks k) s = (List.range k).map fun j => (o + s.cfg.pollTicks j, .poll true) := by
  induction k with
  | zero => simp [Config.pollTicks, pinTrace]
  | succ k ih =>
    rw [pollTicks_succ] at hr ⊢
    have hr' := State.noReset_mono hr (Nat.le_add_right ..)
    have hs' : ∀ j < k, s.seen (s.cfg.pollTicks j) = true := fun j hj => hs j (by omega)
    have ha' : s.cfg.pollsAllowed k := fun b hb => by have := ha b hb; omega
    obtain ⟨w, hpolls⟩ := runFor_highPolls s hv hf h0 k hs' ha' hr'
    rw [pinTrace_add o _ hpolls, ih hs' ha' hr', List.range_succ, List.map_append]
    exact congrArg _ (pinTrace_highPoll _ (((s.clockedBy (s.cfg.pollTicks k)).withPollCnt (pollCntAfter s k)).enter .wait w)
      hv rfl (by simpa [State.seen_clockedBy] using hs k (Nat.lt_succ_self k))
      (fun b hb => by
        have hcount := pollCntAfter_toNat s hv h0 k b hb (by have := ha b hb; omega)
        simpa [hcount] using ha b hb)
      (State.noReset_clockedBy (s := s) hr))

/-- The low poll raises the clock at its own edge (R103, R105). -/
theorem pinTrace_readyPoll (o : Nat) (s : State) (hv : s.cfg.valid = true) (hf : s.fsm = .wait) (hs : s.seen 0 = false)
    (hclock : s.clockPin = false) (hr : s.noReset 1) : pinTrace o 1 s = [(o, .poll false), (o, .rise)] := by
  have hrun := runFor_readyPoll s hv hf hs hr
  rw [runFor_one] at hrun
  rw [pinTrace_one o hrun, eventsAt_live _ (hr 0 Nat.one_pos)]
  simp [hf, hs, hclock]

/-- The last high poll allowed reads the pin and leaves the clock alone (R104). -/
theorem pinTrace_timeout (o : Nat) (s : State) (bound : Nat) (hv : s.cfg.valid = true) (hf : s.fsm = .wait)
    (h0 : s.pollCnt = 0#32) (hc : s.convTimeout 0 bound) (hr : s.noReset (s.cfg.timeoutTicks bound)) :
    pinTrace o (s.cfg.timeoutTicks bound) s = (List.range bound).map fun j => (o + s.cfg.pollTicks j, .poll true) := by
  obtain ⟨w, htimeout⟩ := runFor_timeout s bound hv hf h0 hc hr
  obtain ⟨hk, hs⟩ := hc
  simp only [Nat.zero_add] at hs
  obtain ⟨n, rfl⟩ : ∃ n, bound = n + 1 := ⟨bound - 1, by have := Config.timeout_of_valid hv hk; omega⟩
  rw [Config.timeoutTicks, Nat.add_sub_cancel] at hr htimeout ⊢
  have hs' : ∀ j < n, s.seen (s.cfg.pollTicks j) = true := fun j hj => hs j (by omega)
  have ha : s.cfg.pollsAllowed n := fun b hb => by
    obtain rfl : n + 1 = b := by simpa [hk] using hb
    omega
  have hr' := State.noReset_mono hr (Nat.le_add_right ..)
  obtain ⟨w', hpolls⟩ := runFor_highPolls s hv hf h0 n hs' ha hr'
  rw [runFor_add 1 hpolls, runFor_one] at htimeout
  rw [pinTrace_add o 1 hpolls, pinTrace_highPolls o s hv hf h0 n hs' ha hr', pinTrace_one _ htimeout,
    eventsAt_live _ (by simpa using State.rst_clockedBy hr (Nat.lt_succ_self _)), List.range_succ, List.map_append]
  simp [State.seen_clockedBy, hs n (by omega)]

/-! ### The whole frame -/

/-- From its first rising edge, one tick after the ready poll at `r`, a frame makes its 24 data pulses and one more. -/
theorem pinTrace_fromReady (r : Nat) (s : State) (v : Raw) (hv : s.cfg.valid = true) (ho : s.op.runsFrames = true)
    (hr : s.noReset (25 * s.cfg.pulseTicks))
    (hs : ∀ i < 24, s.seen (s.cfg.tHigh - 1 + i * s.cfg.pulseTicks) = v.getLsbD (23 - i)) :
    pinTrace (r + 1) (25 * s.cfg.pulseTicks) (afterPulses s v 0) =
      (List.range 24).flatMap (pulseEvents s.cfg r v) ++ [(r + s.cfg.tHigh + 24 * s.cfg.pulseTicks, PinEvent.fall)] := by
  rw [Nat.succ_mul] at hr ⊢
  have hr' := State.noReset_mono hr (Nat.le_add_right ..)
  have h1 := s.cfg.one_le_tHigh
  rw [pinTrace_add _ _ (runFor_pulses s v hv 24 le_rfl hr' hs), pinTrace_pulses r s v hv 24 le_rfl hr' hs]
  refine congrArg _ ((pinTrace_channelSelect _ ((s.clockedBy (24 * s.cfg.pulseTicks)).withAcc (v >>> 0) 24#5) hv ho
    (State.noReset_clockedBy (s := s) hr)).trans ?_)
  simp
  omega

/-- `frameEvents` with its data pulses by name. -/
theorem frameEvents_eq (c : Config) (o k : Nat) (v : Raw) :
    frameEvents c o k v = (List.range k).map (fun j => (o + c.pollTicks j, PinEvent.poll true)) ++
      [(o + c.pollTicks k, PinEvent.poll false), (o + c.pollTicks k, PinEvent.rise)] ++
      (List.range 24).flatMap (pulseEvents c (o + c.pollTicks k) v) ++
      [(o + c.pollTicks k + c.tHigh + 24 * c.pulseTicks, PinEvent.fall)] := rfl

theorem pinTrace_frame (s : State) (o k : Nat) (v : Raw) (hv : s.cfg.valid = true) (hf : s.fsm = .wait)
    (h0 : s.pollCnt = 0#32) (hclock : s.clockPin = false) (ho : s.op.runsFrames = true) (hc : s.convFrame 0 k v)
    (ha : s.cfg.pollsAllowed k) (hr : s.noReset (s.cfg.frameTicks k)) :
    pinTrace o (s.cfg.frameTicks k) s = frameEvents s.cfg o k v := by
  obtain ⟨hhigh, hready, hbits⟩ := hc
  simp only [Nat.zero_add] at hhigh hready hbits
  rw [Config.frameTicks] at hr ⊢
  have hrPoll := State.noReset_mono (m := s.cfg.pollTicks k) hr (by omega)
  have hrReady : (s.clockedBy (s.cfg.pollTicks k)).noReset 1 :=
    State.noReset_clockedBy (State.noReset_mono hr (Nat.le_add_right ..))
  have hseen : (s.clockedBy (s.cfg.pollTicks k)).seen 0 = false := by simpa [State.seen_clockedBy] using hready
  obtain ⟨w, hpolls⟩ := runFor_highPolls s hv hf h0 k hhigh ha hrPoll
  have hfirst : runFor 1 (((s.clockedBy (s.cfg.pollTicks k)).withPollCnt (pollCntAfter s k)).enter .wait w) =
      .next (afterPulses ((s.clockedBy (s.cfg.pollTicks k + 1)).withPollCnt (pollCntAfter s k)) v 0) := by
    rw [runFor_readyPoll _ (by simpa using hv) rfl (by simpa using hseen) (by simpa using hrReady), afterPulses_zero,
      State.clockedBy_succ]
    simp
  have hrest := pinTrace_fromReady (o + s.cfg.pollTicks k)
    ((s.clockedBy (s.cfg.pollTicks k + 1)).withPollCnt (pollCntAfter s k)) v hv ho (State.noReset_clockedBy (s := s) hr)
    (fun i hi => by
      have := s.cfg.one_le_tHigh
      rw [State.withPollCnt_seen, State.seen_clockedBy, ← hbits i hi]
      congr 1
      simp
      omega)
  rw [Nat.add_assoc, pinTrace_add o _ hpolls, pinTrace_add _ _ hfirst, pinTrace_highPolls o s hv hf h0 k hhigh ha hrPoll,
    pinTrace_readyPoll _ (((s.clockedBy (s.cfg.pollTicks k)).withPollCnt (pollCntAfter s k)).enter .wait w) hv rfl hseen
      hclock hrReady, frameEvents_eq, List.append_assoc, List.append_assoc]
  exact congrArg _ (congrArg _ hrest)

/-! ### How many events of each kind -/

theorem frameEvents_rises (c : Config) (o k : Nat) (v : Raw) :
    ((frameEvents c o k v).filter fun e => e.2 = .rise).length = 25 := by
  simp [frameEvents_eq, pulseEvents, List.filter_flatMap, List.length_flatMap]

theorem frameEvents_falls (c : Config) (o k : Nat) (v : Raw) :
    ((frameEvents c o k v).filter fun e => e.2 = .fall).length = 25 := by
  simp [frameEvents_eq, pulseEvents, List.filter_flatMap, List.length_flatMap]

theorem frameEvents_samples (c : Config) (o k : Nat) (v : Raw) :
    ((frameEvents c o k v).filter fun e => e.2 = .sample true ∨ e.2 = .sample false).length = 24 := by
  simp [frameEvents_eq, pulseEvents, List.filter_flatMap, List.length_flatMap]

/-- Settles O25: the trace of a frame and of a TIMEOUT, phase by phase, and the events that the list holds. -/
theorem frameMakesExactlyItsPinEvents : Obligations.FrameMakesExactlyItsPinEvents := by
  refine ⟨fun s o k v hv hf h0 hclock ho hc ha hr => ⟨pinTrace_frame s o k v hv hf h0 hclock ho hc ha hr, ?_⟩,
    fun c o k v => ⟨frameEvents_rises c o k v, frameEvents_falls c o k v, frameEvents_samples c o k v⟩,
    fun s o bound hv hf h0 _ hc hr => pinTrace_timeout o s bound hv hf h0 hc hr⟩
  obtain ⟨t, hdone, -, hlow, -⟩ := frameComplete_keeps (s := frameEnd s k v) ho
  exact ⟨t, (runFor_frame s k v hv hf h0 hc ha hr).trans hdone, hlow⟩

end Sys2Proof.Machine
end

section
/-! SUPPORT. The sign decoder's forms and range, and DECODE (41_sign_decoder.md). -/

namespace Sys2Proof

/-- The one-formula form of R141: subtract `2^24` exactly when bit 23 is set. -/
theorem decode24_eq_sub_bit (m : Raw) : decode24 m = (m.toNat : ℤ) - 2 ^ 24 * (m.getLsbD 23).toNat := by
  rw [decode24_eq_toInt, BitVec.toInt_eq_msb_cond, BitVec.msb_eq_getLsbD_last]
  cases m.getLsbD 23 <;> simp

theorem decode24_neg_iff (m : Raw) : decode24 m < 0 ↔ m.getLsbD 23 = true := by
  rw [← BitVec.msb_eq_getLsbD_last, BitVec.msb_eq_toInt, decode24_eq_toInt, decide_eq_true_iff]

theorem decode24_injective : Function.Injective decode24 := fun m n h =>
  BitVec.eq_of_toInt_eq (by rwa [decode24_eq_toInt, decode24_eq_toInt] at h)

/-- Every integer of R141's range is the value of its own 24-bit pattern. -/
theorem decode24_ofInt {z : ℤ} (h1 : -2 ^ 23 ≤ z) (h2 : z ≤ 2 ^ 23 - 1) : decode24 (BitVec.ofInt 24 z) = z := by
  rw [decode24_eq_toInt]
  exact BitVec.toInt_ofInt_eq_self (by decide) h1 (by omega)

/-- Settles O22: `decode24` is the two's-complement reading, whose inverse on the range is `BitVec.ofInt 24`. -/
theorem signDecoderForms : Obligations.SignDecoderForms := by
  refine ⟨fun m => ?_, fun m n h => decode24_injective h, fun z h1 h2 => ⟨BitVec.ofInt 24 z, decode24_ofInt h1 h2⟩⟩
  obtain ⟨hlow, hhigh⟩ := decode24_range m
  exact ⟨decode24_eq_sub_bit m, hlow, hhigh, bits64_decode24 m, decode24_neg_iff m⟩

end Sys2Proof

namespace Sys2Proof.Machine

/-- DECODE's whole effect: neither FSM nor INIT_DONE is read (R143). -/
theorem exec_decode (m : Raw) (s : State) :
    exec (.decode m) s = .next { s with done := true, err := 0#3, result := m.signExtend 64 } := by
  rw [← bits64_decode24]
  rfl

/-- Settles O21: the effect holds in every state, IDLE or not, and the four corner values compute. -/
theorem decodeCommandSignExtends : Obligations.DecodeCommandSignExtends :=
  ⟨fun s m _ => exec_decode m s, by decide, by decide, by decide, by decide⟩

end Sys2Proof.Machine
end

section
/-! SUPPORT. The weight mask (42_tare_weight.md R166, R167) and GET_WEIGHT (R165, R168). -/

namespace Sys2Proof

/-! ### The difference and its mask -/

/-- A reading less an offset of R26's range (R166). -/
theorem weightDiff_range (a : Raw) {offset : Word64} (h1 : -2 ^ 23 ≤ signed64 offset) (h2 : signed64 offset ≤ 2 ^ 23 - 1) :
    -(2 ^ 24 - 1) ≤ weightDiff a offset ∧ weightDiff a offset ≤ 2 ^ 24 - 1 := by
  obtain ⟨hlow, hhigh⟩ := decode24_range a
  unfold weightDiff
  constructor <;> omega

/-- The mask bit by bit: the low 16 bits of the 64-bit pattern, and zeros above (R167). -/
theorem mask16_getLsbD (d : ℤ) (i : Nat) : (mask16 d).getLsbD i = (decide (i < 16) && (bits64 d).getLsbD i) := by
  rw [mask16, BitVec.getLsbD_setWidth, BitVec.getLsbD_extractLsb', Nat.zero_add]
  by_cases h : i < 16
  · simp [h, show i < 64 by omega]
  · simp [h]

/-- Settles O38: the range of the difference, and the mask as a number and bit by bit. -/
theorem weightMaskIsTheRemainder : Obligations.WeightMaskIsTheRemainder := by
  refine ⟨fun a offset => weightDiff_range a, fun d => ⟨mask16_toNat d, ?_, fun i hi => ?_, fun i hi => ?_⟩⟩
  · have := mask16_toNat d
    omega
  · rw [mask16_getLsbD, decide_eq_false (by omega), Bool.false_and]
  · rw [mask16_getLsbD, decide_eq_true hi, Bool.true_and]
    rfl

end Sys2Proof

namespace Sys2Proof.Machine

/-! ### GET_WEIGHT (R165, R168) -/

/-- Settles O34: GET_WEIGHT's frame and its completion action, or the TIMEOUT of its ready-wait. -/
theorem getWeightMasksTheDifference : Obligations.GetWeightMasksTheDifference := by
  refine fun s hv hf => ⟨exec_notInit (by simp) hf, fun hs => ⟨_, exec_getWeight_settled hs, rfl, ?_, ?_⟩⟩
  · intro k v hc ha hr
    have hrun :=
      (runFor_frame (s.acceptance.startFrames .getWeight) k v hv rfl rfl hc ha hr).trans (frameComplete_getWeight rfl)
    exact ⟨_, hrun, rfl, rfl, rfl, rfl, mask16_toInt _, State.status_of_done rfl hs rfl rfl, rfl, rfl, hs, rfl, rfl, rfl⟩
  · intro bound hc hr
    obtain ⟨w, hrun⟩ := runFor_timeout (s.acceptance.startFrames .getWeight) bound hv rfl rfl hc hr
    exact ⟨_, hrun, rfl, rfl, rfl, rfl, rfl, rfl, hs, rfl, rfl, rfl⟩

end Sys2Proof.Machine
end

section
/-! SUPPORT. TARE (42_tare_weight.md R160 to R164): the sum of its readings, its frames and rests end to end, and its mean. -/

namespace Sys2Proof

/-! ### The ticks and the sum of several frames -/

theorem Config.restartTicks_concat (c : Config) (fs : List (Nat × Raw)) (f : Nat × Raw) :
    c.restartTicks (fs ++ [f]) = c.restartTicks fs + (c.frameTicks f.1 + c.tRest) := by
  simp [restartTicks]

/-- A TARE ends with the frame after its last rest (R245). -/
theorem Config.tareTicks_concat (c : Config) (fs : List (Nat × Raw)) (f : Nat × Raw) :
    c.tareTicks (fs ++ [f]) = c.restartTicks fs + c.frameTicks f.1 := by
  have hsum : c.restartTicks fs = (fs.map fun f => c.frameTicks f.1).sum + fs.length * c.tRest := by
    simp [restartTicks, List.sum_map_add]
  simp only [tareTicks, hsum, List.map_append, List.map_cons, List.map_nil, List.sum_append, List.sum_singleton,
    List.length_append, List.length_singleton, Nat.add_sub_cancel]
  omega

end Sys2Proof

namespace Sys2Proof.Machine

theorem readingSum_concat (fs : List (Nat × Raw)) (f : Nat × Raw) :
    readingSum (fs ++ [f]) = readingSum fs + decode24 f.2 := by
  simp [readingSum]

/-- As many readings as there are frames, each of R141's range (R32). -/
theorem readingSum_range (fs : List (Nat × Raw)) :
    -2 ^ 23 * (fs.length : ℤ) ≤ readingSum fs ∧ readingSum fs ≤ (2 ^ 23 - 1) * (fs.length : ℤ) := by
  induction fs using List.reverseRecOn with
  | nil => simp [readingSum]
  | append_singleton fs f ih =>
    obtain ⟨hlow, hhigh⟩ := decode24_range f.2
    rw [readingSum_concat, List.length_append, List.length_singleton]
    push_cast
    omega

/-- TSUM holds the sum of up to 65535 readings exactly (R32). -/
theorem signed64_bits64_readingSum {fs : List (Nat × Raw)} (hlen : fs.length ≤ 65535) :
    signed64 (bits64 (readingSum fs)) = readingSum fs := by
  obtain ⟨hlow, hhigh⟩ := readingSum_range fs
  exact signed64_bits64 _ (by omega) (by omega)

theorem tareSum_readingSum {fs : List (Nat × Raw)} (hlen : fs.length ≤ 65535) (f : Nat × Raw) :
    tareSum (bits64 (readingSum fs)) f.2 = readingSum (fs ++ [f]) := by
  rw [tareSum, signed64_bits64_readingSum hlen, readingSum_concat]

/-- The mean of one or more readings fits TARE_OFFSET (R26, R162). -/
theorem signed64_bits64_mean {fs : List (Nat × Raw)} (hpos : 0 < fs.length) :
    signed64 (bits64 ((readingSum fs).tdiv fs.length)) = (readingSum fs).tdiv fs.length := by
  obtain ⟨hlow, hhigh⟩ := readingSum_range fs
  rw [← quot_eq_tdiv]
  obtain ⟨h1, h2⟩ := quot_range _ _ hpos hlow hhigh
  exact signed64_bits64 _ (by omega) (by omega)

theorem readingSum_of_all_eq {fs : List (Nat × Raw)} {a : Raw} (h : ∀ f ∈ fs, f.2 = a) :
    readingSum fs = fs.length * decode24 a := by
  rw [readingSum, List.map_congr_left fun f hf => congrArg decode24 (h f hf)]
  simp

/-- The sum reads the samples alone. -/
theorem readingSum_congr {fs gs : List (Nat × Raw)} (h : fs.map Prod.snd = gs.map Prod.snd) :
    readingSum fs = readingSum gs := by
  have hmap (l : List (Nat × Raw)) : readingSum l = ((l.map Prod.snd).map decode24).sum := by
    rw [List.map_map]
    rfl
  rw [hmap, hmap, h]

/-! ### The converter's answers, frame by frame -/

/-- The answers to `fs` and one frame more: those to `fs`, then the frame that follows their rests (R161). -/
theorem State.convTare_concat (s : State) (o : Nat) (fs : List (Nat × Raw)) (f : Nat × Raw) :
    s.convTare o (fs ++ [f]) ↔
      s.convTare o fs ∧ s.convFrame (o + s.cfg.restartTicks fs) f.1 f.2 ∧ s.cfg.pollsAllowed f.1 := by
  induction fs generalizing o with
  | nil => simp [State.convTare, Config.restartTicks]
  | cons g fs ih =>
    have hticks : o + s.cfg.frameTicks g.1 + s.cfg.tRest + s.cfg.restartTicks fs = o + s.cfg.restartTicks (g :: fs) := by
      simp [Config.restartTicks, Nat.add_assoc]
    simp only [List.cons_append, State.convTare, ih, hticks, and_assoc]

/-- The polls of a frame that times out, moved along a run. -/
theorem State.convTimeout_clockedBy (s : State) (m o bound : Nat) :
    (s.clockedBy m).convTimeout o bound ↔ s.convTimeout (m + o) bound := by
  simp only [State.convTimeout, State.seen_clockedBy, State.clockedBy_cfg, Nat.add_assoc]

/-! ### A TARE before one of its frames -/

/-- A TARE accepted in `s`, where it enters WAIT after the completed frames `fs` and their rests: TCOUNT and TSUM speak of
`fs`, the registers that the next frame writes before it reads them are those of some state `u`, and every other register
is as acceptance left it. -/
def tareWait (s u : State) (fs : List (Nat × Raw)) : State :=
  { s.clockedBy (s.cfg.restartTicks fs) with
    done := false, err := 0#3, op := .tare, pollCnt := 0#32, fsm := .wait
    tCount := BitVec.ofNat 16 fs.length, tSum := bits64 (readingSum fs)
    acc := u.acc, bitCnt := u.bitCnt, clockPin := u.clockPin, timer := u.timer }

/-- Acceptance leads to the TARE before its first frame (R100, R160). -/
theorem exec_tare_eq_tareWait {s : State} (hs : s.initDone = true) : exec .tare s = .next (tareWait s s []) :=
  exec_tare_settled hs

/-- The frame after `fs`, run to its completion action. -/
theorem runFor_tareWait_frame {s : State} (u : State) {fs : List (Nat × Raw)} {f : Nat × Raw} (hv : s.cfg.valid = true)
    (hc : s.convFrame (s.cfg.restartTicks fs) f.1 f.2) (ha : s.cfg.pollsAllowed f.1)
    (hr : s.noReset (s.cfg.restartTicks fs + s.cfg.frameTicks f.1)) :
    runFor (s.cfg.frameTicks f.1) (tareWait s u fs) = frameComplete (frameEnd (tareWait s u fs) f.1 f.2) :=
  runFor_frame (tareWait s u fs) f.1 f.2 hv rfl rfl ((s.convFrame_clockedBy _ 0 f.1 f.2).2 hc) ha
    (State.noReset_clockedBy (s := s) hr)

/-- One more frame and its rest: the environment moves on, and one reading is added (R160, R161). -/
theorem tareWait_concat (s u : State) {fs : List (Nat × Raw)} (f : Nat × Raw) (hlen : fs.length ≤ 65535) :
    tareWait s u (fs ++ [f]) =
      { (tareWait s u fs).clockedBy (s.cfg.frameTicks f.1 + s.cfg.tRest) with
        tSum := bits64 (tareSum (tareWait s u fs).tSum f.2), tCount := (tareWait s u fs).tCount + 1#16 } := by
  unfold tareWait
  rw [Config.restartTicks_concat, ← State.clockedBy_add, ← tareSum_readingSum hlen, List.length_append, BitVec.ofNat_add]
  rfl

/-- The rest after a frame ends in WAIT with POLLCNT 0 (R161). -/
theorem runFor_rest (s : State) (hv : s.cfg.valid = true) (hr : s.noReset s.cfg.tRest) :
    runFor s.cfg.tRest (s.enter .rest s.cfg.tRest) =
      .next (((s.clockedBy s.cfg.tRest).withPollCnt 0#32).enter .wait 1) :=
  runFor_phase s .rest _ hv rfl s.cfg.one_le_tRest (Config.ticks_of_valid hv).2.2.2.2 hr

/-- TCOUNT is exact: a TARE has at most 65535 frames (R8 (1), R32). -/
theorem tCount_tareWait_toNat {s : State} (u : State) {fs : List (Nat × Raw)} (hlen : fs.length ≤ 65535) :
    (tareWait s u fs).tCount.toNat = fs.length := by
  rw [tareWait, BitVec.toNat_ofNat]
  omega

/-- The frame after `fs`, when it is not the last, and its rest lead to the frame after it (R160, R161). -/
theorem runFor_tareWait_next {s : State} (u : State) {fs : List (Nat × Raw)} {f : Nat × Raw} (hv : s.cfg.valid = true)
    (hlen : fs.length + 1 < s.cfg.nTare) (hc : s.convFrame (s.cfg.restartTicks fs) f.1 f.2)
    (ha : s.cfg.pollsAllowed f.1) (hr : s.noReset (s.cfg.restartTicks (fs ++ [f]))) :
    ∃ u', runFor (s.cfg.frameTicks f.1 + s.cfg.tRest) (tareWait s u fs) = .next (tareWait s u' (fs ++ [f])) := by
  obtain ⟨-, hN⟩ := Config.tareCount_of_valid hv
  rw [Config.restartTicks_concat, ← Nat.add_assoc] at hr
  have hmore : (frameEnd (tareWait s u fs) f.1 f.2).tCount.toNat + 1 < s.cfg.nTare :=
    (tCount_tareWait_toNat (s := s) u (fs := fs) (by omega)).symm ▸ hlen
  have hframe := (runFor_tareWait_frame u hv hc ha (State.noReset_mono hr (Nat.le_add_right ..))).trans
    (frameComplete_tare_more rfl hmore)
  have hrestLive := State.noReset_clockedBy (s := s.clockedBy (s.cfg.restartTicks fs)) (m := s.cfg.frameTicks f.1)
    (State.noReset_clockedBy (by rwa [← Nat.add_assoc]))
  refine ⟨(frameEnd (tareWait s u fs) f.1 f.2).enter .wait 1,
    ((runFor_add _ hframe).trans (runFor_rest _ hv hrestLive)).trans (congrArg _ ?_)⟩
  rw [tareWait_concat _ _ _ (by omega), ← State.clockedBy_add]
  rfl

/-- The frames `fs`, none of them the last, and their rests, one after the other (R160, R161). -/
theorem runFor_restarts {s : State} {fs : List (Nat × Raw)} (hv : s.cfg.valid = true) (hlen : fs.length < s.cfg.nTare)
    (hc : s.convTare 0 fs) (hr : s.noReset (s.cfg.restartTicks fs)) :
    ∃ u, runFor (s.cfg.restartTicks fs) (tareWait s s []) = .next (tareWait s u fs) := by
  induction fs using List.reverseRecOn with
  | nil => exact ⟨s, rfl⟩
  | append_singleton fs f ih =>
    rw [List.length_append, List.length_singleton] at hlen
    rw [State.convTare_concat, Nat.zero_add] at hc
    obtain ⟨hcs, hcf, ha⟩ := hc
    have hticks := s.cfg.restartTicks_concat fs f
    obtain ⟨u, hrun⟩ := ih (by omega) hcs (State.noReset_mono hr (by omega))
    obtain ⟨u', hnext⟩ := runFor_tareWait_next u hv hlen hcf ha hr
    exact ⟨u', by rw [hticks, runFor_add _ hrun, hnext]⟩

/-- The last frame of a TARE, run to its end: the mean of the readings goes to TARE_OFFSET, the sample to RAW (R160). -/
theorem runFor_tareWait_last {s : State} (u : State) {fs : List (Nat × Raw)} {f : Nat × Raw} (hv : s.cfg.valid = true)
    (hlen : fs.length + 1 = s.cfg.nTare) (hc : s.convFrame (s.cfg.restartTicks fs) f.1 f.2)
    (ha : s.cfg.pollsAllowed f.1) (hr : s.noReset (s.cfg.restartTicks fs + s.cfg.frameTicks f.1)) :
    runFor (s.cfg.frameTicks f.1) (tareWait s u fs) = .next (State.finish { frameEnd (tareWait s u fs) f.1 f.2 with
      tSum := bits64 (readingSum (fs ++ [f])), tCount := BitVec.ofNat 16 s.cfg.nTare,
      tareOffset := bits64 ((readingSum (fs ++ [f])).tdiv s.cfg.nTare), raw := f.2 }) := by
  obtain ⟨-, hN⟩ := Config.tareCount_of_valid hv
  have hlast : s.cfg.nTare ≤ (frameEnd (tareWait s u fs) f.1 f.2).tCount.toNat + 1 :=
    (tCount_tareWait_toNat (s := s) u (fs := fs) (by omega)).symm ▸ hlen.ge
  have hcount : BitVec.ofNat 16 s.cfg.nTare = BitVec.ofNat 16 fs.length + 1#16 := by rw [← hlen, BitVec.ofNat_add]
  rw [runFor_tareWait_frame u hv hc ha hr, frameComplete_tare_last rfl hlast, ← tareSum_readingSum (by omega), hcount]
  rfl

/-! ### The obligations on TARE -/

/-- Settles O35: all frames but the last with their rests, then the last and its completion action. -/
theorem tareStoresTheTruncatedMean : Obligations.TareStoresTheTruncatedMean := by
  refine fun s hv hf => ⟨exec_notInit (by simp) hf, fun hs => ⟨_, exec_tare_settled hs, rfl, fun fs hlen hc hr => ?_⟩⟩
  obtain ⟨h1, hN⟩ := Config.tareCount_of_valid hv
  have hmean := signed64_bits64_mean (fs := fs) (by omega)
  have hsum := signed64_bits64_readingSum (fs := fs) (by omega)
  obtain rfl | ⟨gs, f, rfl⟩ := fs.eq_nil_or_concat'
  · rw [List.length_nil] at hlen
    omega
  rw [List.length_append, List.length_singleton] at hlen
  rw [Config.tareTicks_concat] at hr ⊢
  rw [State.convTare_concat, Nat.zero_add] at hc
  obtain ⟨hcs, hcf, ha⟩ := hc
  obtain ⟨u, hfirst⟩ := runFor_restarts hv (by omega) hcs (State.noReset_mono hr (Nat.le_add_right ..))
  have hrun := (runFor_add _ hfirst).trans (runFor_tareWait_last u hv hlen hcf ha hr)
  refine ⟨_, hrun, rfl, rfl, rfl, State.status_of_done rfl hs rfl rfl, ?_, ?_, rfl, hs, rfl, ?_, hsum⟩
  · simpa [hlen] using hmean
  · simp
  · exact (BitVec.toNat_ofNat ..).trans (Nat.mod_eq_of_lt (by omega))

/-- Settles O36: the completed frames with their rests, then the TIMEOUT of the next ready-wait. -/
theorem tareTimeoutStoresNothing : Obligations.TareTimeoutStoresNothing := by
  intro s fs bound hv hf hs hlen hc ht hr
  obtain ⟨u, hfirst⟩ := runFor_restarts hv hlen hc (State.noReset_mono hr (Nat.le_add_right ..))
  obtain ⟨w, htimeout⟩ := runFor_timeout (tareWait s u fs) bound hv rfl rfl
    ((s.convTimeout_clockedBy _ 0 bound).2 ht) (State.noReset_clockedBy (s := s) hr)
  exact ⟨_, _, exec_tare_eq_tareWait hs, (runFor_add _ hfirst).trans htimeout, rfl, rfl, rfl, rfl, rfl, rfl, hs⟩

/-- A TARE's run with the result that R163 speaks of. -/
theorem exists_tare_run {s : State} {fs : List (Nat × Raw)} (hv : s.cfg.valid = true) (hf : s.fsm = .idle)
    (hs : s.initDone = true) (hlen : fs.length = s.cfg.nTare) (hc : s.convTare 0 fs) (hr : s.noReset (s.cfg.tareTicks fs)) :
    ∃ t0 t, exec .tare s = .next t0 ∧ runFor (s.cfg.tareTicks fs) t0 = .next t ∧ t.fsm = .idle ∧
      signed64 t.tareOffset = (readingSum fs).tdiv s.cfg.nTare := by
  obtain ⟨t0, hexec, -, htare⟩ := (tareStoresTheTruncatedMean s hv hf).2 hs
  obtain ⟨t, hrun, hidle, -, -, -, hmean, -⟩ := htare fs hlen hc hr
  exact ⟨t0, t, hexec, hrun, hidle, hmean⟩

/-- Settles O37: both clauses read TARE_OFFSET off the mean of O35. -/
theorem tareHasNoFilterAndNoMemory : Obligations.TareHasNoFilterAndNoMemory := by
  constructor
  · intro s fs a hv hf hs hlen hall hc hr
    obtain ⟨t0, t, hexec, hrun, hidle, hmean⟩ := exists_tare_run hv hf hs hlen hc hr
    have hpos := (Config.tareCount_of_valid hv).1
    rw [readingSum_of_all_eq hall, hlen, Int.mul_tdiv_cancel_left _ (by omega), decode24_eq_toInt] at hmean
    refine ⟨t0, t, hexec, hrun, hidle, BitVec.eq_of_toInt_eq (hmean.trans ?_)⟩
    rw [BitVec.toInt_signExtend_of_le (by decide)]
  · intro s u fs gs hvs hvu hfs hfu hss hsu hN hlen hsame hcs hcu hrs hru
    have hlen' : gs.length = u.cfg.nTare := by
      rw [← hN, ← hlen, ← List.length_map (f := Prod.snd), ← hsame, List.length_map]
    obtain ⟨t0, t, hexect, hrunt, hidlet, hmeant⟩ := exists_tare_run hvs hfs hss hlen hcs hrs
    obtain ⟨w0, w, hexecw, hrunw, hidlew, hmeanw⟩ := exists_tare_run hvu hfu hsu hlen' hcu hru
    rw [readingSum_congr hsame, hN] at hmeant
    exact ⟨t0, t, w0, w, hexect, hrunt, hexecw, hrunw, hidlet, hidlew, BitVec.eq_of_toInt_eq (hmeant.trans hmeanw.symm)⟩

end Sys2Proof.Machine
end

section
/-! SUPPORT. Errors (60_exceptions.md R201, R203, R206), the converter that becomes ready (R214), and the state kept in
IDLE (R217). -/

namespace Sys2Proof.Machine

/-! ### Errors (R201, R203, R206) -/

/-- Settles O19: the acceptance of a reading command with INIT_DONE 0. -/
theorem unsettledReadsRaiseNotInit : Obligations.UnsettledReadsRaiseNotInit := fun _ _ hi hf hs => exec_notInit hi hf hs

/-- An error of a row over `s`, which leads to `t`: ILLEGAL or NOT_INIT at an acceptance, TIMEOUT at a poll. Nothing but
DONE, ERR and FSM is written (R206). -/
inductive RaisesError (s : State) : State → Prop where
  | atAcceptance (e : ErrCode) (hf : s.fsm = .idle) (he : e = .illegal ∨ e = .notInit) :
      RaisesError s { s with done := false, err := e.code, fsm := .idle }
  | atPoll (hf : s.fsm = .wait) : RaisesError s { s with err := ErrCode.timeout.code, fsm := .idle }

/-- A row that runs or accepts a command from a state with ERR clear while busy leaves ERR set only where it raises. -/
theorem Row.raisesError_of_err {p : PortIn} {d : Bool} {s t : State} (h : Row p d s t)
    (hclean : s.fsm ≠ .idle → s.err = 0#3) (hcmd : s.fsm ≠ .idle ∨ p.cmdValid = true) (herr : t.err ≠ 0#3) :
    RaisesError s t := by
  cases h with
  | illegal _ hf => exact .atAcceptance .illegal hf (.inl rfl)
  | notInit _ hf => exact .atAcceptance .notInit hf (.inr rfl)
  | timeout _ hf => exact .atPoll hf
  | idle hf ho => simp [hf, ho] at hcmd
  | init | decode | tare | readRaw | getWeight => exact absurd rfl herr
  | countdown hf => exact absurd (hclean fun hidle => by simp [hidle, FSM.isTimed] at hf) herr
  | settled hf | ready hf | pollFree hf | pollCounted _ hf | pollAgain hf | sample hf | nextPulse hf | channelSelect hf
  | channelSelected hf | readRawDone hf | getWeightDone hf | tareFrame hf | tareDone hf | rested hf =>
    exact absurd (hclean (by simp [hf])) herr

/-- Settles O44: the invariant keeps ERR and DONE clear while a command runs and the pin low in IDLE and WAIT, the phases
from which a row raises. -/
theorem errorsArePrecise : Obligations.ErrorsArePrecise := by
  intro s t hi h hr hcmd herr
  have hlow (h1 : s.fsm ≠ .high) (h2 : s.fsm ≠ .cselHigh) : s.clockPin = false :=
    Bool.eq_false_iff.2 fun hpin => (hi.clock.1 hpin).elim h1 h2
  obtain ⟨-, ⟨hr', -⟩ | ⟨-, hrow⟩⟩ := step_cases h
  · simp [hr] at hr'
  have hclean : s.fsm ≠ .idle → s.err = 0#3 := fun hf => (hi.busyClean hf).2
  cases hrow.raisesError_of_err hclean hcmd herr with
  | atAcceptance e hf he =>
    rw [State.clocked_fsm] at hf
    obtain rfl | rfl := he <;> simp [hf, hlow, ErrCode.code]
  | atPoll hf =>
    rw [State.clocked_fsm] at hf
    simp [hf, hlow, (hi.busyClean (by simp [hf])).1, ErrCode.code]

/-! ### A converter that becomes ready (R214) -/

/-- Fewer high polls make a shorter frame. -/
theorem frameTicks_mono (c : Config) {j k : Nat} (h : j ≤ k) : c.frameTicks j ≤ c.frameTicks k := by
  have hpolls : c.pollTicks j ≤ c.pollTicks k := Nat.mul_le_mul_right _ h
  simp only [Config.frameTicks]
  omega

/-- Any 24 levels are a sample, so a frame that polls high `k` times, then low, is one of R214's for some sample. -/
theorem State.exists_convFrame {s : State} {k : Nat} (hhigh : ∀ j < k, s.seen (s.cfg.pollTicks j) = true)
    (hready : s.seen (s.cfg.pollTicks k) = false) : ∃ v, s.convFrame 0 k v := by
  obtain ⟨v, hbits⟩ := exists_raw_of_bits fun i => s.seen (s.cfg.pollTicks k + s.cfg.tHigh + i * s.cfg.pulseTicks)
  refine ⟨v, ?_⟩
  simp only [State.convFrame, Nat.zero_add]
  exact ⟨hhigh, hready, hbits⟩

/-- A converter whose poll `k` reads low answers with a frame that has at most `k` high polls: those before the first
poll that reads low. -/
theorem State.exists_convFrame_le {s : State} {k : Nat} (hlow : s.seen (s.cfg.pollTicks k) = false) :
    ∃ j ≤ k, ∃ v, s.convFrame 0 j v := by
  have hex : ∃ j, s.seen (s.cfg.pollTicks j) = false := ⟨k, hlow⟩
  exact ⟨Nat.find hex, Nat.find_min' hex hlow,
    State.exists_convFrame (fun j hj => eq_true_of_ne_false (Nat.find_min hex hj)) (Nat.find_spec hex)⟩

/-- Settles O31: the frame up to the first low poll, run to the completion action of the command. -/
theorem readyConverterEndsTheRead : Obligations.ReadyConverterEndsTheRead := by
  intro s i k hi hv hf hs hk hlow hr
  obtain ⟨j, hj, v, hc⟩ := State.exists_convFrame_le hlow
  have ha : s.cfg.pollsAllowed j := fun b hb => by simp [hk] at hb
  have hticks := frameTicks_mono s.cfg hj
  have hframe (c : OpKind) := runFor_frame (s.acceptance.startFrames c) j v hv rfl rfl hc ha (State.noReset_mono hr hticks)
  obtain rfl | rfl := hi
  · exact ⟨_, _, _, exec_readRaw_settled hs, hticks, (hframe .readRaw).trans (frameComplete_readRaw rfl), rfl, rfl, rfl⟩
  · exact ⟨_, _, _, exec_getWeight_settled hs, hticks, (hframe .getWeight).trans (frameComplete_getWeight rfl), rfl, rfl,
      rfl⟩

/-! ### The state kept in IDLE (R217) -/

/-- Settles O45, by induction on the ticks: each edge with nothing offered is only the edge's own shift. -/
theorem idleKeepsAllState : Obligations.IdleKeepsAllState := by
  intro s n hv hf hr ho
  induction n with
  | zero => rfl
  | succ n ih =>
    have hrun := ih (State.noReset_mono hr (Nat.le_succ n)) fun j hj => ho j (Nat.lt_succ_of_lt hj)
    have hport : (s.clockedBy n).portAt 0 = s.portAt n := s.portAt_clockedBy n 0
    rw [runFor_add 1 hrun, runFor_one, s.clockedBy_succ]
    exact step_notOffered hv (hport ▸ hr n (Nat.lt_succ_self n)) hf (hport ▸ ho n (Nat.lt_succ_self n))

end Sys2Proof.Machine
end

section
/-! SUPPORT. Reset (70_reset_and_hazards.md R230), the clock-high interval and its sample (R234, R239), and the durations of
configuration 4M (R245). -/

namespace Sys2Proof

/-! ### The durations of configuration 4M (R245) -/

/-- A TARE of `n` frames with equally many high polls each (R245). -/
theorem Config.tareTicks_replicate (c : Config) (n : Nat) (f : Nat × Raw) :
    c.tareTicks (List.replicate n f) = n * c.frameTicks f.1 + (n - 1) * c.tRest := by
  simp [tareTicks]

/-- Settles O8: R7's rounding gives 4M's tick counts, and R113's formulas over them the durations. -/
theorem timing4MTickCounts : Obligations.Timing4MTickCounts := by
  have hframe : Config.timing4M.frameTicks 0 = 201 := by decide
  have hrest : Config.timing4M.tRest = 40000 := by decide
  refine ⟨by decide, by decide, by decide, by decide, by decide, hrest, hframe, by decide, by decide, ?_⟩
  rw [Config.tareTicks_replicate, hframe, hrest]

/-- R8 (6) of a valid configuration, over the rationals. -/
theorem Config.powerDown_of_valid {c : Config} (hv : c.valid = true) {d : Duration} (hd : c.tPdUs = some d) :
    (c.tHigh : ℚ) / c.fSysHz < (d.num / d.den : ℚ) / 10 ^ 6 := by
  obtain ⟨hIn, -, -, -, -, -, hPd⟩ := c.valid_iff.1 hv
  obtain ⟨hf, -, -, hden⟩ := Config.denominators_pos_of_inDomain hIn
  exact (Config.powerDownOk_iff hf hden).1 hPd d hd

end Sys2Proof

namespace Sys2Proof.Machine

/-! ### Reset (R230) -/

/-- Settles O10: the step is the reset edge, whose registers are the reset column. -/
theorem resetEdgeSetsEveryRegister : Obligations.ResetEdgeSetsEveryRegister := fun s hv hr =>
  ⟨s.resetEdge, step_reset s hv hr, rfl, rfl, rfl, rfl, rfl, rfl, rfl, rfl, rfl, rfl, rfl, rfl, rfl, rfl, rfl, rfl, rfl,
    rfl, rfl, rfl, rfl⟩

/-- Settles O13: `State.reset` is the reset state under configuration 4M, which is valid. -/
theorem resetMeetsTheInvariant : Obligations.ResetMeetsTheInvariant :=
  ⟨State.inv_resetWith timing4MTickCounts.1, fun _ hv => State.inv_resetWith hv⟩

/-! ### The clock-high interval (R234, R239) -/

/-- A state at the entry of a phase of `d` ticks is one that has just entered it. -/
theorem State.enter_eq_self {s : State} {f : FSM} {d : Nat} (hf : s.fsm = f) (ht : s.timer = BitVec.ofNat 32 (d - 1)) :
    s.enter f d = s := by
  rw [State.enter, ← hf, ← ht]

/-- The exits of the two high phases let the pin fall (R106, R107). -/
theorem highPhase_exit_falls {f : FSM} (hf : f = .high ∨ f = .cselHigh) (d : Bool) (s : State) :
    ∃ t, f.exit d s = .next t ∧ t.clockPin = false := by
  obtain rfl | rfl := hf <;> exact ⟨_, rfl, rfl⟩

/-- Settles O27: HIGH is one timed phase, its exit shifts in the level seen at its last edge, and R8 (4) makes that a level
of the pin inside the hold. -/
theorem sampleShowsTheLevelAfterItsRisingEdge : Obligations.SampleShowsTheLevelAfterItsRisingEdge := by
  intro s hv hlen hf ht hr
  have hsync : s.cfg.syncStages ≤ s.cfg.tHigh - 1 := Nat.le_sub_one_of_lt (Config.sync_of_valid hv)
  have hseen : s.seen (s.cfg.tHigh - 1) = (s.portAt (s.cfg.tHigh - 1 - s.cfg.syncStages)).dataPin := by
    rw [← hlen] at hsync ⊢
    exact State.seen_of_le hsync
  have hrun := runFor_phase s .high s.cfg.tHigh hv rfl s.cfg.one_le_tHigh (Config.ticks_of_valid hv).2.1 hr
  rw [State.enter_eq_self hf ht, hseen] at hrun
  exact ⟨hsync, _, hrun, rfl⟩

/-- Settles O28: a high phase moves nothing but its TIMER before its exit, which lets the pin fall; the bound is R8 (6). -/
theorem clockHighLastsExactlyTHigh : Obligations.ClockHighLastsExactlyTHigh := by
  intro s hv hf hpin ht hr
  obtain ⟨-, hH, -, -, -⟩ := Config.ticks_of_valid hv
  have hentry : s.enter s.fsm s.cfg.tHigh = s := State.enter_eq_self rfl ht
  have htimed : s.fsm.isTimed = true := by obtain hf | hf := hf <;> rw [hf] <;> rfl
  refine ⟨fun j hj => ?_, ?_, fun d hd => Config.powerDown_of_valid hv hd⟩
  · have hrun := runFor_within s s.fsm s.cfg.tHigh j hv htimed hj hH (State.noReset_mono hr hj.le)
    rw [hentry] at hrun
    exact ⟨_, hrun, hpin⟩
  · have hrun := runFor_phase s s.fsm s.cfg.tHigh hv htimed s.cfg.one_le_tHigh hH hr
    rw [hentry] at hrun
    obtain ⟨t, hexit, hlow⟩ := highPhase_exit_falls hf (s.seen (s.cfg.tHigh - 1)) ((s.clockedBy s.cfg.tHigh).enter s.fsm 1)
    exact ⟨t, hrun.trans hexit, hlow⟩

end Sys2Proof.Machine
end
